-- ==== Sys2Proof/Word.lean ====
section
/-! DEFINITION. The two word types of the machine (00_scope.md R4, R5): an 8-bit byte and a 16-bit word. -/

namespace Sys2Proof

/-- An 8-bit byte: a general register, a memory byte, an immediate `d8`, `a8` or `e8`. -/
abbrev Byte := BitVec 8

/-- A 16-bit word: an address, SP, pc, a register pair, an immediate `d16` or `a16`. -/
abbrev Word := BitVec 16

end Sys2Proof
end

