-- ==== Sys2Proof/Machine/Bits.lean ====
section
/-! DEFINITION. Bit-field, byte-order and extension helpers (00_scope.md R5, R8; 20_memory.md R72). -/

namespace Sys2Proof.Machine

/-- `hi:lo` concatenation, the left operand in the more significant position (00_scope.md R5). -/
def wordOf (hi lo : Byte) : Word := hi ++ lo

/-- `v[15:8]` (00_scope.md R5). -/
def hiByte (v : Word) : Byte := v.extractLsb' 8 8

/-- `v[7:0]` (00_scope.md R5). -/
def loByte (v : Word) : Byte := v.extractLsb' 0 8

/-- `zext_16` of a byte (00_scope.md R8). -/
def zext16 (v : Byte) : Word := v.zeroExtend 16

/-- `sext_16` of a byte (00_scope.md R8): e when e < 0x80, e + 0xFF00 when e >= 0x80. -/
def sext16 (e : Byte) : Word := if e.toNat < 0x80 then zext16 e else zext16 e + 0xFF00

/-- `v[n]` of a byte (00_scope.md R5). -/
def bitOf (v : Byte) (n : Nat) : Bool := v.getLsbD n

/-- The byte with only bit `n` set, `1 << n` (00_scope.md R5). -/
def bitMask (n : Nat) : Byte := 1#8 <<< n

end Sys2Proof.Machine
end

