-- ==== Sys2Proof/Syntax.lean ====
section
/-! DEFINITION. The instruction set as syntax: one constructor of `Instr` per row of spec/opcode_table.json
(30_encoding.md R120..R139). Operand fields are constructors; the machine never sees a raw register code. -/

namespace Sys2Proof

/-- The 8-bit registers with an encoding code (30_encoding.md R123): 0 B, 1 C, 2 D, 3 E, 4 H, 5 L, 7 A. -/
inductive Reg8 where
  | b | c | d | e | h | l | a
  deriving DecidableEq, Repr

/-- Register pairs of the load and arithmetic group, field `pp` (30_encoding.md R124). -/
inductive Pair where
  | bc | de | hl | sp
  deriving DecidableEq, Repr

/-- Register pairs of the stack group, field `pp` (30_encoding.md R125). -/
inductive StackPair where
  | bc | de | hl | af
  deriving DecidableEq, Repr

/-- Conditions, field `cc` (30_encoding.md R126). -/
inductive Cond where
  | nz | z | nc | c
  deriving DecidableEq, Repr

/-- The instructions, one constructor per row of the opcode table. -/
inductive Instr where
  -- 8-bit loads, 40_load8.md R160..R178
  | ldRR (dst src : Reg8)
  | ldRHl (dst : Reg8)
  | ldHlR (src : Reg8)
  | ldRD8 (dst : Reg8) (n : Byte)
  | ldHlD8 (n : Byte)
  | ldABc
  | ldADe
  | ldBcA
  | ldDeA
  | ldHlIncA
  | ldAHlInc
  | ldHlDecA
  | ldAHlDec
  | ldhA8A (n : Byte)
  | ldhAA8 (n : Byte)
  | ldCA
  | ldAC
  | ldA16A (w : Word)
  | ldAA16 (w : Word)
  -- 16-bit loads and stack transfers, 41_load16.md R200..R206
  | ldRrD16 (p : Pair) (w : Word)
  | ldA16Sp (w : Word)
  | ldSpHl
  | ldHlSpE8 (e : Byte)
  | pushRr (p : StackPair)
  | popRr (p : StackPair)
  | popAf
  -- 8-bit arithmetic and logic, 42_alu8.md R230..R261
  | addAR (r : Reg8)
  | addAHl
  | addAD8 (n : Byte)
  | adcAR (r : Reg8)
  | adcAHl
  | adcAD8 (n : Byte)
  | subAR (r : Reg8)
  | subAHl
  | subAD8 (n : Byte)
  | sbcAR (r : Reg8)
  | sbcAHl
  | sbcAD8 (n : Byte)
  | andAR (r : Reg8)
  | andAHl
  | andAD8 (n : Byte)
  | xorAR (r : Reg8)
  | xorAHl
  | xorAD8 (n : Byte)
  | orAR (r : Reg8)
  | orAHl
  | orAD8 (n : Byte)
  | cpAR (r : Reg8)
  | cpAHl
  | cpAD8 (n : Byte)
  | incR (r : Reg8)
  | incHl
  | decR (r : Reg8)
  | decHl
  | daa
  | cpl
  | scf
  | ccf
  -- 16-bit arithmetic, 43_alu16.md R280..R283
  | addHlRr (p : Pair)
  | incRr (p : Pair)
  | decRr (p : Pair)
  | addSpE8 (e : Byte)
  -- rotates, shifts and bit operations, 44_rotate_shift_bit.md R300..R325
  | rlca
  | rrca
  | rla
  | rra
  | rlcR (r : Reg8)
  | rlcHl
  | rrcR (r : Reg8)
  | rrcHl
  | rlR (r : Reg8)
  | rlHl
  | rrR (r : Reg8)
  | rrHl
  | slaR (r : Reg8)
  | slaHl
  | sraR (r : Reg8)
  | sraHl
  | swapR (r : Reg8)
  | swapHl
  | srlR (r : Reg8)
  | srlHl
  | bitR (n : BitVec 3) (r : Reg8)
  | bitHl (n : BitVec 3)
  | resR (n : BitVec 3) (r : Reg8)
  | resHl (n : BitVec 3)
  | setR (n : BitVec 3) (r : Reg8)
  | setHl (n : BitVec 3)
  -- control transfer, 45_control.md R340..R350
  | jpA16 (w : Word)
  | jpCcA16 (k : Cond) (w : Word)
  | jpHl
  | jrE8 (e : Byte)
  | jrCcE8 (k : Cond) (e : Byte)
  | callA16 (w : Word)
  | callCcA16 (k : Cond) (w : Word)
  | ret
  | retCc (k : Cond)
  | reti
  | rstT (t : BitVec 3)
  -- miscellaneous and CPU control, 46_misc.md R380..R384; `pad` is STOP's ignored second byte
  | nop
  | halt
  | stop (pad : Byte)
  | di
  | ei
  -- the eleven illegal first bytes, 46_misc.md R385
  | illegalD3
  | illegalDB
  | illegalDD
  | illegalE3
  | illegalE4
  | illegalEB
  | illegalEC
  | illegalED
  | illegalF4
  | illegalFC
  | illegalFD
  deriving DecidableEq, Repr

end Sys2Proof
end

