-- ==== Sys2Proof/WellFormed.lean ====
section
/-! DEFINITION. Which terms of `Instr` are instructions: the constraints of spec/opcode_table.json that the operand
types do not already enforce. -/

namespace Sys2Proof

/-- `Instr.wf i`: every field of `i` has a value its row admits. The types exclude register code 6 (30_encoding.md R123)
and bound every other field; what is left is row `POP rr`, whose `pp` excludes 3: `pp` = 3 is the row `POP AF`
(41_load16.md R205). -/
def Instr.wf : Instr → Bool
  | .popRr p => p != .af
  | _ => true

end Sys2Proof
end

