-- ==== Sys2Proof/Decode.lean ====
section
/-! DEFINITION. Decoding, total on any bytes (30_encoding.md R136), and after it the encoder, both written from the
encoding tables of 30_encoding.md (R120..R135, R139). -/

namespace Sys2Proof

open Sys2Proof.Machine (wordOf hiByte loByte)

/-! ### Operand field codes -/

/-- 30_encoding.md R123: the register with a 3-bit code; code 6 is (HL), no register. -/
def regOfCode (k : BitVec 3) : Option Reg8 :=
  match k.toNat with
  | 0 => some .b
  | 1 => some .c
  | 2 => some .d
  | 3 => some .e
  | 4 => some .h
  | 5 => some .l
  | 6 => none
  | _ => some .a

/-- 30_encoding.md R123. -/
def Reg8.code : Reg8 → BitVec 3
  | .b => 0
  | .c => 1
  | .d => 2
  | .e => 3
  | .h => 4
  | .l => 5
  | .a => 7

/-- 30_encoding.md R124. -/
def pairOfCode (k : BitVec 2) : Pair :=
  match k.toNat with
  | 0 => .bc
  | 1 => .de
  | 2 => .hl
  | _ => .sp

/-- 30_encoding.md R124. -/
def Pair.code : Pair → BitVec 2
  | .bc => 0
  | .de => 1
  | .hl => 2
  | .sp => 3

/-- 30_encoding.md R125. -/
def stackPairOfCode (k : BitVec 2) : StackPair :=
  match k.toNat with
  | 0 => .bc
  | 1 => .de
  | 2 => .hl
  | _ => .af

/-- 30_encoding.md R125. -/
def StackPair.code : StackPair → BitVec 2
  | .bc => 0
  | .de => 1
  | .hl => 2
  | .af => 3

/-- 30_encoding.md R126. -/
def condOfCode (k : BitVec 2) : Cond :=
  match k.toNat with
  | 0 => .nz
  | 1 => .z
  | 2 => .nc
  | _ => .c

/-- 30_encoding.md R126. -/
def Cond.code : Cond → BitVec 2
  | .nz => 0
  | .z => 1
  | .nc => 2
  | .c => 3

/-! ### The fields of an opcode byte (30_encoding.md R122) -/

/-- `x` = opcode[7:6]. -/
def opX (b : Byte) : BitVec 2 := b.extractLsb' 6 2
/-- `y` = opcode[5:3]: `ddd`, `ooo`, `bbb`, `ttt`. -/
def opY (b : Byte) : BitVec 3 := b.extractLsb' 3 3
/-- `z` = opcode[2:0]: `sss`. -/
def opZ (b : Byte) : BitVec 3 := b.extractLsb' 0 3
/-- `p` = opcode[5:4]: `pp`. -/
def opP (b : Byte) : BitVec 2 := b.extractLsb' 4 2
/-- `q` = opcode[3]. -/
def opQ (b : Byte) : Bool := b.getLsbD 3
/-- `cc` = opcode[4:3]. -/
def opC (b : Byte) : BitVec 2 := b.extractLsb' 3 2

/-! ### The second-byte map (30_encoding.md R133) -/

/-- Second byte `00 yyy zzz`: the rotates and shifts, register or (HL). -/
def decodeShift (y : BitVec 3) (r : Option Reg8) : Instr :=
  match y.toNat, r with
  | 0, some r => .rlcR r
  | 0, none => .rlcHl
  | 1, some r => .rrcR r
  | 1, none => .rrcHl
  | 2, some r => .rlR r
  | 2, none => .rlHl
  | 3, some r => .rrR r
  | 3, none => .rrHl
  | 4, some r => .slaR r
  | 4, none => .slaHl
  | 5, some r => .sraR r
  | 5, none => .sraHl
  | 6, some r => .swapR r
  | 6, none => .swapHl
  | _, some r => .srlR r
  | _, none => .srlHl

/-- The instruction behind the prefix 0xCB with second byte `b` (30_encoding.md R133). -/
def decodeCb (b : Byte) : Instr :=
  match (opX b).toNat, regOfCode (opZ b) with
  | 0, r => decodeShift (opY b) r
  | 1, some r => .bitR (opY b) r
  | 1, none => .bitHl (opY b)
  | 2, some r => .resR (opY b) r
  | 2, none => .resHl (opY b)
  | _, some r => .setR (opY b) r
  | _, none => .setHl (opY b)

/-! ### The first-byte map (30_encoding.md R130..R132) -/

/-- The ALU register block `10 ooo sss` (30_encoding.md R131). -/
def decodeAlu (y : BitVec 3) (r : Option Reg8) : Instr :=
  match y.toNat, r with
  | 0, some r => .addAR r
  | 0, none => .addAHl
  | 1, some r => .adcAR r
  | 1, none => .adcAHl
  | 2, some r => .subAR r
  | 2, none => .subAHl
  | 3, some r => .sbcAR r
  | 3, none => .sbcAHl
  | 4, some r => .andAR r
  | 4, none => .andAHl
  | 5, some r => .xorAR r
  | 5, none => .xorAHl
  | 6, some r => .orAR r
  | 6, none => .orAHl
  | _, some r => .cpAR r
  | _, none => .cpAHl

/-- The ALU immediate block `11 ooo 110` (30_encoding.md R131). -/
def decodeAluImm (y : BitVec 3) (n : Byte) : Instr :=
  match y.toNat with
  | 0 => .addAD8 n
  | 1 => .adcAD8 n
  | 2 => .subAD8 n
  | 3 => .sbcAD8 n
  | 4 => .andAD8 n
  | 5 => .xorAD8 n
  | 6 => .orAD8 n
  | _ => .cpAD8 n

/-- Block x = 0, 0x00..0x3F (30_encoding.md R129, R130, R132). -/
def decodeBlock0 (b d1 d2 : Byte) : Instr :=
  match (opZ b).toNat with
  | 0 =>
    match (opY b).toNat with
    | 0 => .nop
    | 1 => .ldA16Sp (wordOf d2 d1)
    | 2 => .stop d1
    | 3 => .jrE8 d1
    | _ => .jrCcE8 (condOfCode (opC b)) d1
  | 1 => if opQ b then .addHlRr (pairOfCode (opP b)) else .ldRrD16 (pairOfCode (opP b)) (wordOf d2 d1)
  | 2 =>
    match (opY b).toNat with
    | 0 => .ldBcA
    | 1 => .ldABc
    | 2 => .ldDeA
    | 3 => .ldADe
    | 4 => .ldHlIncA
    | 5 => .ldAHlInc
    | 6 => .ldHlDecA
    | _ => .ldAHlDec
  | 3 => if opQ b then .decRr (pairOfCode (opP b)) else .incRr (pairOfCode (opP b))
  | 4 =>
    match regOfCode (opY b) with
    | some r => .incR r
    | none => .incHl
  | 5 =>
    match regOfCode (opY b) with
    | some r => .decR r
    | none => .decHl
  | 6 =>
    match regOfCode (opY b) with
    | some r => .ldRD8 r d1
    | none => .ldHlD8 d1
  | _ =>
    match (opY b).toNat with
    | 0 => .rlca
    | 1 => .rrca
    | 2 => .rla
    | 3 => .rra
    | 4 => .daa
    | 5 => .cpl
    | 6 => .scf
    | _ => .ccf

/-- Block x = 1, 0x40..0x7F (30_encoding.md R129, R130): `LD r,r'`, its (HL) forms, and HALT at 0x76. -/
def decodeBlock1 (b : Byte) : Instr :=
  match regOfCode (opY b), regOfCode (opZ b) with
  | some dst, some src => .ldRR dst src
  | some dst, none => .ldRHl dst
  | none, some src => .ldHlR src
  | none, none => .halt

/-- Block x = 3, 0xC0..0xFF (30_encoding.md R129, R130, R134). -/
def decodeBlock3 (b d1 d2 : Byte) : Instr :=
  match (opZ b).toNat with
  | 0 =>
    match (opY b).toNat with
    | 4 => .ldhA8A d1
    | 5 => .addSpE8 d1
    | 6 => .ldhAA8 d1
    | 7 => .ldHlSpE8 d1
    | _ => .retCc (condOfCode (opC b))
  | 1 =>
    match opQ b, (opP b).toNat with
    | false, 3 => .popAf
    | false, _ => .popRr (stackPairOfCode (opP b))
    | true, 0 => .ret
    | true, 1 => .reti
    | true, 2 => .jpHl
    | true, _ => .ldSpHl
  | 2 =>
    match (opY b).toNat with
    | 4 => .ldCA
    | 5 => .ldA16A (wordOf d2 d1)
    | 6 => .ldAC
    | 7 => .ldAA16 (wordOf d2 d1)
    | _ => .jpCcA16 (condOfCode (opC b)) (wordOf d2 d1)
  | 3 =>
    match (opY b).toNat with
    | 0 => .jpA16 (wordOf d2 d1)
    | 1 => decodeCb d1
    | 2 => .illegalD3
    | 3 => .illegalDB
    | 4 => .illegalE3
    | 5 => .illegalEB
    | 6 => .di
    | _ => .ei
  | 4 =>
    match (opY b).toNat with
    | 4 => .illegalE4
    | 5 => .illegalEC
    | 6 => .illegalF4
    | 7 => .illegalFC
    | _ => .callCcA16 (condOfCode (opC b)) (wordOf d2 d1)
  | 5 =>
    match opQ b, (opP b).toNat with
    | false, _ => .pushRr (stackPairOfCode (opP b))
    | true, 0 => .callA16 (wordOf d2 d1)
    | true, 1 => .illegalDD
    | true, 2 => .illegalED
    | true, _ => .illegalFD
  | 6 => decodeAluImm (opY b) d1
  | _ => .rstT (opY b)

/-- The instruction that starts with byte `b` and is followed in memory by `d1` and `d2` (30_encoding.md R136). Total:
an illegal first byte is the instruction of its own row. Bytes the instruction does not have are not looked at. -/
def decodeBytes (b d1 d2 : Byte) : Instr :=
  match (opX b).toNat with
  | 0 => decodeBlock0 b d1 d2
  | 1 => decodeBlock1 b
  | 2 => decodeAlu (opY b) (regOfCode (opZ b))
  | _ => decodeBlock3 b d1 d2

/-! ### Lengths (30_encoding.md R120) -/

/-- True for the eleven instructions of 30_encoding.md R134. -/
def Instr.illegal : Instr → Bool
  | .illegalD3 | .illegalDB | .illegalDD | .illegalE3 | .illegalE4 | .illegalEB
  | .illegalEC | .illegalED | .illegalF4 | .illegalFC | .illegalFD => true
  | _ => false

/-- The encoded length of a legal instruction in bytes (30_encoding.md R120). R120 gives an illegal first byte no length,
and the step leaves pc at pc0 for one (60_exceptions.md R420), so `length` is 0 there. -/
def Instr.length : Instr → Nat
  | .ldRD8 .. | .ldHlD8 .. | .ldhA8A .. | .ldhAA8 .. | .ldHlSpE8 .. | .addSpE8 .. => 2
  | .addAD8 .. | .adcAD8 .. | .subAD8 .. | .sbcAD8 .. | .andAD8 .. | .xorAD8 .. | .orAD8 .. | .cpAD8 .. => 2
  | .jrE8 .. | .jrCcE8 .. | .stop .. => 2
  | .rlcR .. | .rlcHl | .rrcR .. | .rrcHl | .rlR .. | .rlHl | .rrR .. | .rrHl => 2
  | .slaR .. | .slaHl | .sraR .. | .sraHl | .swapR .. | .swapHl | .srlR .. | .srlHl => 2
  | .bitR .. | .bitHl .. | .resR .. | .resHl .. | .setR .. | .setHl .. => 2
  | .ldRrD16 .. | .ldA16Sp .. | .ldA16A .. | .ldAA16 .. => 3
  | .jpA16 .. | .jpCcA16 .. | .callA16 .. | .callCcA16 .. => 3
  | .illegalD3 | .illegalDB | .illegalDD | .illegalE3 | .illegalE4 | .illegalEB
  | .illegalEC | .illegalED | .illegalF4 | .illegalFC | .illegalFD => 0
  | .ldRR .. | .ldRHl .. | .ldHlR .. | .ldABc | .ldADe | .ldBcA | .ldDeA | .ldHlIncA | .ldAHlInc | .ldHlDecA
  | .ldAHlDec | .ldCA | .ldAC | .ldSpHl | .pushRr .. | .popRr .. | .popAf | .addAR .. | .addAHl | .adcAR ..
  | .adcAHl | .subAR .. | .subAHl | .sbcAR .. | .sbcAHl | .andAR .. | .andAHl | .xorAR .. | .xorAHl | .orAR ..
  | .orAHl | .cpAR .. | .cpAHl | .incR .. | .incHl | .decR .. | .decHl | .daa | .cpl | .scf | .ccf
  | .addHlRr .. | .incRr .. | .decRr .. | .rlca | .rrca | .rla | .rra | .jpHl | .ret | .retCc .. | .reti
  | .rstT .. | .nop | .halt | .di | .ei => 1

/-- The bytes an instruction's encoding occupies: its length, or the one byte of an illegal first byte. -/
def Instr.size (i : Instr) : Nat := if i.illegal then 1 else i.length

/-! ### Decoding a list of bytes -/

/-- Why a list of bytes holds no whole instruction. -/
inductive DecodeError where
  /-- The list is empty. -/
  | noBytes
  /-- The first byte needs more bytes than the list has. -/
  | truncated (opcode : Byte)
  deriving DecidableEq, Repr

/-- The first instruction of a list of bytes and the bytes after it (30_encoding.md R136). -/
def decode (bytes : List Byte) : Except DecodeError (Instr × List Byte) :=
  match bytes with
  | [] => .error .noBytes
  | b :: rest =>
    let i := decodeBytes b (rest.getD 0 0) (rest.getD 1 0)
    if rest.length + 1 < i.size then .error (.truncated b) else .ok (i, bytes.drop i.size)

/-! ### The encoder (30_encoding.md R121: formats; the `encoding` column of spec/opcode_table.json) -/

/-- An opcode byte `xx yyy zzz`. -/
def octal (x : BitVec 2) (y z : BitVec 3) : Byte := x ++ y ++ z

/-- An opcode byte `xx pp zzzz`. -/
def quad (x p : BitVec 2) (z : BitVec 4) : Byte := x ++ p ++ z

/-- An opcode byte `xxx cc zzz`. -/
def condOp (x : BitVec 3) (k : BitVec 2) (z : BitVec 3) : Byte := x ++ k ++ z

/-- Format OP_D16 or OP_A16: opcode, low byte, high byte (30_encoding.md R121, R127). -/
def withWord (op : Byte) (w : Word) : List Byte := [op, loByte w, hiByte w]

/-- Format CB_OP: the prefix, then the second opcode byte (30_encoding.md R121, R128). -/
def withCb (op2 : Byte) : List Byte := [0xCB, op2]

/-- The bytes of an instruction in ascending address order. -/
def encode : Instr → List Byte
  | .ldRR dst src => [octal 1 dst.code src.code]
  | .ldRHl dst => [octal 1 dst.code 6]
  | .ldHlR r => [octal 1 6 r.code]
  | .ldRD8 dst n => [octal 0 dst.code 6, n]
  | .ldHlD8 n => [0x36, n]
  | .ldABc => [0x0A]
  | .ldADe => [0x1A]
  | .ldBcA => [0x02]
  | .ldDeA => [0x12]
  | .ldHlIncA => [0x22]
  | .ldAHlInc => [0x2A]
  | .ldHlDecA => [0x32]
  | .ldAHlDec => [0x3A]
  | .ldhA8A n => [0xE0, n]
  | .ldhAA8 n => [0xF0, n]
  | .ldCA => [0xE2]
  | .ldAC => [0xF2]
  | .ldA16A w => withWord 0xEA w
  | .ldAA16 w => withWord 0xFA w
  | .ldRrD16 p w => withWord (quad 0 p.code 0b0001) w
  | .ldA16Sp w => withWord 0x08 w
  | .ldSpHl => [0xF9]
  | .ldHlSpE8 e => [0xF8, e]
  | .pushRr p => [quad 3 p.code 0b0101]
  | .popRr p => [quad 3 p.code 0b0001]
  | .popAf => [0xF1]
  | .addAR r => [octal 2 0 r.code]
  | .addAHl => [0x86]
  | .addAD8 n => [0xC6, n]
  | .adcAR r => [octal 2 1 r.code]
  | .adcAHl => [0x8E]
  | .adcAD8 n => [0xCE, n]
  | .subAR r => [octal 2 2 r.code]
  | .subAHl => [0x96]
  | .subAD8 n => [0xD6, n]
  | .sbcAR r => [octal 2 3 r.code]
  | .sbcAHl => [0x9E]
  | .sbcAD8 n => [0xDE, n]
  | .andAR r => [octal 2 4 r.code]
  | .andAHl => [0xA6]
  | .andAD8 n => [0xE6, n]
  | .xorAR r => [octal 2 5 r.code]
  | .xorAHl => [0xAE]
  | .xorAD8 n => [0xEE, n]
  | .orAR r => [octal 2 6 r.code]
  | .orAHl => [0xB6]
  | .orAD8 n => [0xF6, n]
  | .cpAR r => [octal 2 7 r.code]
  | .cpAHl => [0xBE]
  | .cpAD8 n => [0xFE, n]
  | .incR r => [octal 0 r.code 4]
  | .incHl => [0x34]
  | .decR r => [octal 0 r.code 5]
  | .decHl => [0x35]
  | .daa => [0x27]
  | .cpl => [0x2F]
  | .scf => [0x37]
  | .ccf => [0x3F]
  | .addHlRr p => [quad 0 p.code 0b1001]
  | .incRr p => [quad 0 p.code 0b0011]
  | .decRr p => [quad 0 p.code 0b1011]
  | .addSpE8 e => [0xE8, e]
  | .rlca => [0x07]
  | .rrca => [0x0F]
  | .rla => [0x17]
  | .rra => [0x1F]
  | .rlcR r => withCb (octal 0 0 r.code)
  | .rlcHl => withCb 0x06
  | .rrcR r => withCb (octal 0 1 r.code)
  | .rrcHl => withCb 0x0E
  | .rlR r => withCb (octal 0 2 r.code)
  | .rlHl => withCb 0x16
  | .rrR r => withCb (octal 0 3 r.code)
  | .rrHl => withCb 0x1E
  | .slaR r => withCb (octal 0 4 r.code)
  | .slaHl => withCb 0x26
  | .sraR r => withCb (octal 0 5 r.code)
  | .sraHl => withCb 0x2E
  | .swapR r => withCb (octal 0 6 r.code)
  | .swapHl => withCb 0x36
  | .srlR r => withCb (octal 0 7 r.code)
  | .srlHl => withCb 0x3E
  | .bitR n r => withCb (octal 1 n r.code)
  | .bitHl n => withCb (octal 1 n 6)
  | .resR n r => withCb (octal 2 n r.code)
  | .resHl n => withCb (octal 2 n 6)
  | .setR n r => withCb (octal 3 n r.code)
  | .setHl n => withCb (octal 3 n 6)
  | .jpA16 w => withWord 0xC3 w
  | .jpCcA16 k w => withWord (condOp 0b110 k.code 2) w
  | .jpHl => [0xE9]
  | .jrE8 e => [0x18, e]
  | .jrCcE8 k e => [condOp 0b001 k.code 0, e]
  | .callA16 w => withWord 0xCD w
  | .callCcA16 k w => withWord (condOp 0b110 k.code 4) w
  | .ret => [0xC9]
  | .retCc k => [condOp 0b110 k.code 0]
  | .reti => [0xD9]
  | .rstT t => [octal 3 t 7]
  | .nop => [0x00]
  | .halt => [0x76]
  | .stop pad => [0x10, pad]
  | .di => [0xF3]
  | .ei => [0xFB]
  | .illegalD3 => [0xD3]
  | .illegalDB => [0xDB]
  | .illegalDD => [0xDD]
  | .illegalE3 => [0xE3]
  | .illegalE4 => [0xE4]
  | .illegalEB => [0xEB]
  | .illegalEC => [0xEC]
  | .illegalED => [0xED]
  | .illegalF4 => [0xF4]
  | .illegalFC => [0xFC]
  | .illegalFD => [0xFD]

/-! ### The opcode table's words -/

/-- Byte `k` of a table word: bits `8*k+7 .. 8*k` of `w`, the bits from `nbits` up being 0. The first byte of an
instruction is the one at the lowest address (20_memory.md R73), bits 7..0 of the word. -/
def tableByte (nbits w k : Nat) : Byte := BitVec.ofNat 8 (w % 2 ^ nbits / 2 ^ (8 * k))

/-- The instruction the decoder reads from the bytes of a table word (three bytes, the longest instruction). -/
def decodeTableWord (nbits w : Nat) : Option Instr :=
  match decode [tableByte nbits w 0, tableByte nbits w 1, tableByte nbits w 2] with
  | .ok (i, _) => some i
  | .error _ => none

end Sys2Proof
end

