-- ==== Sys2Proof/Config.lean ====
section
/-! DEFINITION. What an implementation fixes (00_scope.md R4) and the open parameters, which have no body. -/

namespace Sys2Proof.Config

/-- `SENTINEL`, the byte an unmapped address reads as (20_memory.md R85, decision D7; log entry 1). -/
def sentinel : Byte := 0xFF

/-- `IDLE_CYCLES`, the cycles of a step taken while halted (60_exceptions.md R402, decision D13; log entry 1). -/
def idleCycles : Nat := 4

/-- `IRQ_DISPATCH_CYCLES`, the cycles an interrupt dispatch forwards (60_exceptions.md R411, decision D11; log entry 1). -/
def irqDispatchCycles : Nat := 0

/-- What a byte of RAM or ROM that the sparse stores do not list reads as. DESIGN CHOICE (log entry 2): it is the
representation of the byte 0x00, not a promise about uninitialised RAM, whose contents are part of State. -/
def unlistedByte : Byte := 0x00

/-- One colour of a delivered scanline. DESIGN CHOICE (log entry 7): the "32-bit color value per pixel" of 70_reset_and_hazards.md R515. -/
abbrev Colour := BitVec 32

/-- One audio sample. DESIGN CHOICE (log entry 8): the 32-bit sample of 70_reset_and_hazards.md R515, as its bits. -/
abbrev Sample := BitVec 32

/-- The arguments of `RenderLine` (60_exceptions.md R449). -/
structure RenderInput where
  line : Byte
  lcdc : Byte
  scy : Byte
  scx : Byte
  wy : Byte
  wx : Byte
  bgp : Byte
  obp0 : Byte
  obp1 : Byte
  vram : List (Nat × Byte)
  oam : List (Nat × Byte)
  deriving DecidableEq, Repr

/-- `RenderLine` (60_exceptions.md R449, R450): 160 colours, uninterpreted (log entry 7). -/
opaque renderLine : RenderInput → Vector Colour 160

/-- `ApuModel`'s reset state (60_exceptions.md R455; 70_reset_and_hazards.md R503), uninterpreted, coded as bytes (log entry 8). -/
opaque apuReset : List Byte

/-- `ApuModel`'s tick: cycles and APU state to the new state and the sample batches delivered (60_exceptions.md R455), uninterpreted (log entry 8). -/
opaque apuTick : Nat → List Byte → List Byte × List (List Sample)

/-- `ApuModel`'s register-write hook (60_exceptions.md R456), uninterpreted (log entry 8). -/
opaque apuWrite : Word → Byte → List Byte → List Byte

/-- Which header type bytes beyond `none` and `MBC1` the implementation supports (20_memory.md R100), uninterpreted (log entry 9). -/
opaque mapperSupported : Byte → Bool

/-- The reset state of a supplied mapper kind (70_reset_and_hazards.md R505), uninterpreted (log entry 9). -/
opaque mapperReset : Byte → List Byte

/-- `bank-select-read` of a supplied mapper kind, ROM half (20_memory.md R94), uninterpreted (log entry 9). -/
opaque mapperRomBank : Byte → List Byte → Nat

/-- `bank-select-read` of a supplied mapper kind, RAM half (20_memory.md R94), uninterpreted (log entry 9). -/
opaque mapperRamBank : Byte → List Byte → Nat

/-- `ram-enable` of a supplied mapper kind (20_memory.md R94), uninterpreted (log entry 9). -/
opaque mapperRamEnable : Byte → List Byte → Bool

/-- `bank-select-write` of a supplied mapper kind (20_memory.md R94, R95), uninterpreted (log entry 9). -/
opaque mapperWrite : Byte → Word → Byte → List Byte → List Byte

end Sys2Proof.Config
end

