-- ==== Sys2Proof/Machine/State.lean ====
section
/-! DEFINITION. The state of the machine as plain data (10_state.md R20, R39), its faults and refusals, and its value
after reset (10_state.md R38; 70_reset_and_hazards.md R501..R505). -/

namespace Sys2Proof.Machine

/-- A sparse byte store: (key, byte) pairs, keys strictly rising, no byte equal to `Config.unlistedByte`
(`Memory.wf` of Machine/Memory.lean). -/
abbrev Memory := List Host.Cell

/-- The CPU register file and control bits (10_state.md R21..R31). -/
structure Cpu where
  a : Byte
  f : Byte
  b : Byte
  c : Byte
  d : Byte
  e : Byte
  h : Byte
  l : Byte
  sp : Word
  pc : Word
  ime : Bool
  imePending : Bool
  halted : Bool
  stopped : Bool
  faulted : Bool
  deriving DecidableEq, Repr

/-- IE at 0xFFFF and IF at 0xFF0F (10_state.md R32, R33). -/
structure Irq where
  ie : Byte
  iflag : Byte
  deriving DecidableEq, Repr

/-- The timer registers and hidden counters (60_exceptions.md R430). -/
structure Timer where
  div : Byte
  tima : Byte
  tma : Byte
  tac : Byte
  divCount : Nat
  timaCount : Nat
  deriving DecidableEq, Repr

/-- The LCD registers and the hidden position in the line (60_exceptions.md R440, R441). The current mode is `stat[1:0]`
and the current line is `ly`, one copy each (90_conflicts.md C10). -/
structure Lcd where
  lcdc : Byte
  stat : Byte
  scy : Byte
  scx : Byte
  ly : Byte
  lyc : Byte
  dma : Byte
  bgp : Byte
  obp0 : Byte
  obp1 : Byte
  wy : Byte
  wx : Byte
  lineCount : Nat
  deriving DecidableEq, Repr

/-- The joypad (60_exceptions.md R460, R461): the two stored select bits P1[5:4] and the pressed keys. -/
structure Joypad where
  select : BitVec 2
  keys : Byte
  deriving DecidableEq, Repr

/-- The link registers (60_exceptions.md R465). -/
structure Link where
  sb : Byte
  sc : Byte
  deriving DecidableEq, Repr

/-- The APU (60_exceptions.md R455, R456): its registers and wave RAM as the CPU sees them, keyed by address, and the
opaque internal state of `ApuModel` (log entry 8). -/
structure Apu where
  regs : Memory
  internal : List Byte
  deriving DecidableEq, Repr

/-- The mapper kinds (20_memory.md R94): `none`, `MBC1`, or a supplied instance named by its header type byte (R100). -/
inductive MapperKind where
  | romOnly
  | mbc1
  | supplied (code : Byte)
  deriving DecidableEq, Repr

/-- The mapper registers: those of MBC1 (20_memory.md R97) and the private state of a supplied kind (R94; log entry 9). -/
structure Mapper where
  ramEnable : Bool
  bankLo : BitVec 5
  bankHi : BitVec 2
  bankMode : Bool
  supplied : List Byte
  deriving DecidableEq, Repr

/-- The loaded cartridge (20_memory.md R82, R101): the ROM image as a sparse store keyed by ROM offset with its length,
the mapper kind and the bank counts. A parameter of the step relation (10_state.md R20) held as data that no step changes
(log entry 3). -/
structure Cartridge where
  rom : Memory
  romLength : Nat
  kind : MapperKind
  romBanks : Nat
  ramBanks : Nat
  deriving DecidableEq, Repr

/-- The memories owned by the MMU (20_memory.md R81): VRAM, work RAM, OAM and high RAM keyed by CPU address, cartridge RAM
keyed by its offset. Their contents at load are `RAM_INIT` (70_reset_and_hazards.md R504; log entry 2). -/
structure Rams where
  vram : Memory
  cartRam : Memory
  wram : Memory
  oam : Memory
  hram : Memory
  deriving DecidableEq, Repr

/-- One scanline handed to the host's callback (60_exceptions.md R450): its line index and its 160 pixels. -/
structure Scanline where
  line : Byte
  pixels : Vector Config.Colour 160
  deriving DecidableEq, Repr

/-- What the last step returned and delivered to the host's callbacks (60_exceptions.md R401 step 8, R450, R455; log entry 6). -/
structure StepOut where
  cycles : Nat
  scanlines : List Scanline
  audio : List (List Config.Sample)
  deriving DecidableEq, Repr

/-- The whole machine (10_state.md R20). -/
structure State where
  cpu : Cpu
  irq : Irq
  timer : Timer
  lcd : Lcd
  joypad : Joypad
  link : Link
  apu : Apu
  mapper : Mapper
  cart : Cartridge
  ram : Rams
  out : StepOut
  deriving DecidableEq, Repr

/-- The reasons a step ends in a fault. -/
inductive Fault where
  /-- Raised by the eleven illegal first bytes (60_exceptions.md R420; 46_misc.md R385): the opcode, its address, and the
  state the raise leaves, in which `faulted` is 1 and all else is as before the step (log entry 4). Safe: the machine has no
  later step (R421), and the fault is the outcome the spec names. -/
  | illegalOpcode (opcode : Byte) (addr : Word) (after : State)
  deriving DecidableEq, Repr

/-- The reasons a step is refused. -/
inductive Refusal where
  /-- Answered by an arm of `exec` whose instruction has no meaning yet. Safe: no next state. No arm answers it. -/
  | notModelled (mnemonic : String)
  /-- Answered by `step` when `faulted` is 1: a faulted machine has no step (60_exceptions.md R421). Safe: no next state. -/
  | machineFaulted
  deriving DecidableEq, Repr

/-- The CPU state after reset (10_state.md R38). -/
def Cpu.reset : Cpu where
  a := 0x01
  f := 0xB0
  b := 0x00
  c := 0x13
  d := 0x00
  e := 0xD8
  h := 0x01
  l := 0x4D
  sp := 0xFFFE
  pc := 0x0100
  ime := false
  imePending := false
  halted := false
  stopped := false
  faulted := false

/-- IE and IF after reset (10_state.md R38; 70_reset_and_hazards.md R502). -/
def Irq.reset : Irq where
  ie := 0x00
  iflag := 0x00

/-- The timer after reset (70_reset_and_hazards.md R502, R503). -/
def Timer.reset : Timer where
  div := 0x00
  tima := 0x00
  tma := 0x00
  tac := 0x00
  divCount := 0
  timaCount := 0

/-- The LCD controller after reset (70_reset_and_hazards.md R502, R503). -/
def Lcd.reset : Lcd where
  lcdc := 0x91
  stat := 0x06
  scy := 0x00
  scx := 0x00
  ly := 0x00
  lyc := 0x00
  dma := 0x00
  bgp := 0xFC
  obp0 := 0xFF
  obp1 := 0xFF
  wy := 0x00
  wx := 0x00
  lineCount := 0

/-- The joypad after reset: stored select bits 0x30, no key pressed (70_reset_and_hazards.md R502, R503). -/
def Joypad.reset : Joypad where
  select := 3
  keys := 0x00

/-- The link registers after reset (70_reset_and_hazards.md R502). -/
def Link.reset : Link where
  sb := 0x00
  sc := 0x00

/-- The APU after reset (70_reset_and_hazards.md R502, R503): the registers whose reset value is not 0x00 are listed. -/
def Apu.reset : Apu where
  regs := [(0xFF10, 0x80), (0xFF11, 0xBF), (0xFF12, 0xF3), (0xFF14, 0xBF), (0xFF16, 0x3F), (0xFF19, 0xBF)] ++
    [(0xFF1A, 0x7F), (0xFF1B, 0xFF), (0xFF1C, 0x9F), (0xFF1E, 0xBF), (0xFF20, 0xFF), (0xFF23, 0xBF)] ++
    [(0xFF24, 0x77), (0xFF25, 0xF3), (0xFF26, 0xF1)]
  internal := Config.apuReset

/-- The mapper after reset (20_memory.md R97; 70_reset_and_hazards.md R505). -/
def Mapper.reset (kind : MapperKind) : Mapper where
  ramEnable := false
  bankLo := 1
  bankHi := 0
  bankMode := false
  supplied :=
    match kind with
    | .romOnly => []
    | .mbc1 => []
    | .supplied code => Config.mapperReset code

/-- No cycles returned, nothing delivered. -/
def StepOut.empty : StepOut where
  cycles := 0
  scanlines := []
  audio := []

/-- The machine a successful load leaves (70_reset_and_hazards.md R500, R516): the reset state with the cartridge and the
RAM contents `RAM_INIT` given. -/
def State.powerOn (cart : Cartridge) (ramInit : Rams) : State where
  cpu := Cpu.reset
  irq := Irq.reset
  timer := Timer.reset
  lcd := Lcd.reset
  joypad := Joypad.reset
  link := Link.reset
  apu := Apu.reset
  mapper := Mapper.reset cart.kind
  cart := cart
  ram := ramInit
  out := StepOut.empty

/-- The cartridge of `State.reset`: mapper `none`, a 32 KiB image of 0x00 bytes, the cartridge of 95_test_vectors.md's
start state VS. DESIGN CHOICE (log entry 3). -/
def Cartridge.blank : Cartridge where
  rom := []
  romLength := 0x8000
  kind := .romOnly
  romBanks := 2
  ramBanks := 0

/-- The RAM contents of `State.reset`: every byte 0x00. DESIGN CHOICE (log entry 2). -/
def Rams.blank : Rams where
  vram := []
  cartRam := []
  wram := []
  oam := []
  hram := []

/-- The machine right after reset (70_reset_and_hazards.md R500..R505), with the blank cartridge and blank RAM. -/
def State.reset : State := State.powerOn Cartridge.blank Rams.blank

end Sys2Proof.Machine
end

