-- ==== Sys2Proof/Machine/Memory.lean ====
section
/-! DEFINITION. The sparse byte stores: reading, writing, and the one canonical form. -/

namespace Sys2Proof.Machine

/-- The byte at key `k`; an unlisted key reads `Config.unlistedByte`. -/
def Memory.read : Memory → Nat → Byte
  | [], _ => Config.unlistedByte
  | (key, v) :: rest, k => if key = k then v else Memory.read rest k

/-- Store `v` at key `k`, keeping the canonical form: writing `Config.unlistedByte` removes the entry. -/
def Memory.write : Memory → Nat → Byte → Memory
  | [], k, v => if v = Config.unlistedByte then [] else [(k, v)]
  | (key, w) :: rest, k, v =>
    if k < key then (if v = Config.unlistedByte then (key, w) :: rest else (k, v) :: (key, w) :: rest)
    else if k = key then (if v = Config.unlistedByte then rest else (k, v) :: rest)
    else (key, w) :: Memory.write rest k v

/-- Canonical from key `low` on: keys strictly rising and at least `low`, no entry equal to `Config.unlistedByte`. -/
def Memory.wfFrom : Nat → Memory → Bool
  | _, [] => true
  | low, (key, v) :: rest => decide (low ≤ key) && (v != Config.unlistedByte) && Memory.wfFrom (key + 1) rest

/-- The canonical form of a store. -/
def Memory.wf (m : Memory) : Bool := Memory.wfFrom 0 m

/-- The canonical store that holds the bytes of a list at keys `start`, `start + 1`, … -/
def Memory.ofBytes : Nat → List Byte → Memory
  | _, [] => []
  | start, v :: rest =>
    if v = Config.unlistedByte then Memory.ofBytes (start + 1) rest else (start, v) :: Memory.ofBytes (start + 1) rest

end Sys2Proof.Machine
end

