-- ==== Sys2Proof/Machine/Cartridge.lean ====
section
/-! DEFINITION. The cartridge bank-switch controller (20_memory.md R82, R83, R94..R100). -/

namespace Sys2Proof.Machine

/-- `ROM[offset]`, or the sentinel at or beyond the length of the image (20_memory.md R82, R83). -/
def Cartridge.romByte (cart : Cartridge) (offset : Nat) : Byte :=
  if offset < cart.romLength then cart.rom.read offset else Config.sentinel

/-- MBC1: the ROM bank number before reduction, `bank_lo | (bank_hi << 5 if bank_mode == 0 else 0)` (20_memory.md R98). -/
def Mapper.mbc1RomSelect (m : Mapper) : Nat :=
  m.bankLo.toNat ||| (if m.bankMode then 0 else m.bankHi.toNat <<< 5)

/-- `bank-select-read`, ROM half: the bank mapped at 0x4000..0x7FFF (20_memory.md R94, R96, R98). -/
def Mapper.romBank (m : Mapper) (cart : Cartridge) : Nat :=
  match cart.kind with
  | .romOnly => 1
  | .mbc1 => m.mbc1RomSelect % cart.romBanks
  | .supplied code => Config.mapperRomBank code m.supplied

/-- `bank-select-read`, RAM half: the bank mapped at 0xA000..0xBFFF (20_memory.md R94, R96, R99). A supplied kind's bank is
reduced modulo RAM_BANKS (DESIGN CHOICE, log entry 9). -/
def Mapper.ramBank (m : Mapper) (cart : Cartridge) : Nat :=
  match cart.kind with
  | .romOnly => 0
  | .mbc1 => (if m.bankMode then m.bankHi.toNat else 0) % cart.ramBanks
  | .supplied code => Config.mapperRamBank code m.supplied % cart.ramBanks

/-- `ram-enable`: whether cartridge RAM responds (20_memory.md R94, R96, R99). -/
def Mapper.ramOn (m : Mapper) (cart : Cartridge) : Bool :=
  match cart.kind with
  | .romOnly => false
  | .mbc1 => decide (0 < cart.ramBanks) && m.ramEnable
  | .supplied code => decide (0 < cart.ramBanks) && Config.mapperRamEnable code m.supplied

/-- MBC1 `bank-select-write` (20_memory.md R97). -/
def Mapper.mbc1Write (m : Mapper) (addr : Word) (v : Byte) : Mapper :=
  if addr.toNat < 0x2000 then { m with ramEnable := v.extractLsb' 0 4 == 0xA#4 }
  else if addr.toNat < 0x4000 then
    { m with bankLo := if v.extractLsb' 0 5 = 0#5 then 1#5 else v.extractLsb' 0 5 }
  else if addr.toNat < 0x6000 then { m with bankHi := v.extractLsb' 0 2 }
  else { m with bankMode := v.getLsbD 0 }

/-- `bank-select-write(addr, v)` (20_memory.md R94..R97). -/
def Mapper.write (m : Mapper) (cart : Cartridge) (addr : Word) (v : Byte) : Mapper :=
  match cart.kind with
  | .romOnly => m
  | .mbc1 => m.mbc1Write addr v
  | .supplied code => { m with supplied := Config.mapperWrite code addr v m.supplied }

end Sys2Proof.Machine
end

