-- ==== Sys2Proof/Machine/Ops.lean ====
section
/-! DEFINITION. The named operations over memory and registers: the MMU's address decode (20_memory.md R81..R92), the
memory and stack primitives (00_scope.md R7, R9), fetch, requesting and taking an interrupt and returning from one
(60_exceptions.md R405, R407, R412), and the raise of the one fault (R420). -/

namespace Sys2Proof.Machine

/-! ### Register updates -/

/-- `A <- v`. -/
def State.setA (s : State) (v : Byte) : State := { s with cpu := { s.cpu with a := v } }

/-- `F <- v`. -/
def State.setF (s : State) (v : Byte) : State := { s with cpu := { s.cpu with f := v } }

/-- `SP <- v`. -/
def State.setSp (s : State) (v : Word) : State := { s with cpu := { s.cpu with sp := v } }

/-- `pc <- v`. -/
def State.setPc (s : State) (v : Word) : State := { s with cpu := { s.cpu with pc := v } }

/-- `BC`, B the high half (10_state.md R22). -/
def State.bc (s : State) : Word := wordOf s.cpu.b s.cpu.c

/-- `DE`, D the high half (10_state.md R22). -/
def State.de (s : State) : Word := wordOf s.cpu.d s.cpu.e

/-- `HL`, H the high half (10_state.md R22). -/
def State.hl (s : State) : Word := wordOf s.cpu.h s.cpu.l

/-- `BC <- v` (00_scope.md R6). -/
def State.setBc (s : State) (v : Word) : State := { s with cpu := { s.cpu with b := hiByte v, c := loByte v } }

/-- `DE <- v` (00_scope.md R6). -/
def State.setDe (s : State) (v : Word) : State := { s with cpu := { s.cpu with d := hiByte v, e := loByte v } }

/-- `HL <- v` (00_scope.md R6). -/
def State.setHl (s : State) (v : Word) : State := { s with cpu := { s.cpu with h := hiByte v, l := loByte v } }

/-- The step's cycle count is `n` (60_exceptions.md R401 step 3). -/
def State.spend (s : State) (n : Nat) : State := { s with out := { s.out with cycles := n } }

/-! ### The address map -/

/-- The regions of the address space (20_memory.md R81). -/
inductive Region where
  | romFixed | romBanked | vram | cartRam | wram | echo | oam | unusable | io | hram | ie
  deriving DecidableEq, Repr

/-- The region of an address (20_memory.md R81). -/
def regionOf (a : Word) : Region :=
  if a.toNat < 0x4000 then .romFixed
  else if a.toNat < 0x8000 then .romBanked
  else if a.toNat < 0xA000 then .vram
  else if a.toNat < 0xC000 then .cartRam
  else if a.toNat < 0xE000 then .wram
  else if a.toNat < 0xFE00 then .echo
  else if a.toNat < 0xFEA0 then .oam
  else if a.toNat < 0xFF00 then .unusable
  else if a.toNat < 0xFF80 then .io
  else if a.toNat < 0xFFFF then .hram
  else .ie

/-- The assigned registers of the I/O block (20_memory.md R88); `apu` stands for the 21 APU registers and the wave RAM. -/
inductive IoReg where
  | p1 | sb | sc | div | tima | tma | tac | iflag | apu
  | lcdc | stat | scy | scx | ly | lyc | dma | bgp | obp0 | obp1 | wy | wx
  deriving DecidableEq, Repr

/-- The address of a register (20_memory.md R88); for `apu`, the first of its addresses. -/
def IoReg.address : IoReg → Nat
  | .p1 => 0xFF00
  | .sb => 0xFF01
  | .sc => 0xFF02
  | .div => 0xFF04
  | .tima => 0xFF05
  | .tma => 0xFF06
  | .tac => 0xFF07
  | .iflag => 0xFF0F
  | .apu => 0xFF10
  | .lcdc => 0xFF40
  | .stat => 0xFF41
  | .scy => 0xFF42
  | .scx => 0xFF43
  | .ly => 0xFF44
  | .lyc => 0xFF45
  | .dma => 0xFF46
  | .bgp => 0xFF47
  | .obp0 => 0xFF48
  | .obp1 => 0xFF49
  | .wy => 0xFF4A
  | .wx => 0xFF4B

/-- The registers with one address each. -/
def IoReg.single : List IoReg :=
  [.p1, .sb, .sc, .div, .tima, .tma, .tac, .iflag] ++
    [.lcdc, .stat, .scy, .scx, .ly, .lyc, .dma, .bgp, .obp0, .obp1, .wy, .wx]

/-- The addresses of the APU registers and the wave RAM (60_exceptions.md R456). -/
def apuAddress (n : Nat) : Bool :=
  decide (0xFF10 ≤ n ∧ n ≤ 0xFF14) || decide (0xFF16 ≤ n ∧ n ≤ 0xFF1E) || decide (0xFF20 ≤ n ∧ n ≤ 0xFF26) ||
    decide (0xFF30 ≤ n ∧ n ≤ 0xFF3F)

/-- The register at an address of the I/O block, if one is assigned there (20_memory.md R88). -/
def ioRegOf (a : Word) : Option IoReg :=
  match IoReg.single.find? fun r => r.address == a.toNat with
  | some r => some r
  | none => if apuAddress a.toNat then some .apu else none

/-- P1 as read, computed at read time (60_exceptions.md R461): `0xC0 | P1_sel | (~low & 0x0F)`. -/
def Joypad.p1 (j : Joypad) : Byte :=
  let directions := if j.select.getLsbD 0 then 0#4 else j.keys.extractLsb' 0 4
  let actions := if j.select.getLsbD 1 then 0#4 else j.keys.extractLsb' 4 4
  0b11#2 ++ j.select ++ ~~~(directions ||| actions)

/-- The byte a read of an assigned I/O register at address `a` returns (20_memory.md R88). -/
def State.ioRead (s : State) (a : Word) : IoReg → Byte
  | .p1 => s.joypad.p1
  | .sb => s.link.sb
  | .sc => s.link.sc
  | .div => s.timer.div
  | .tima => s.timer.tima
  | .tma => s.timer.tma
  | .tac => s.timer.tac
  | .iflag => s.irq.iflag
  | .apu => s.apu.regs.read a.toNat
  | .lcdc => s.lcd.lcdc
  | .stat => s.lcd.stat
  | .scy => s.lcd.scy
  | .scx => s.lcd.scx
  | .ly => s.lcd.ly
  | .lyc => s.lcd.lyc
  | .dma => s.lcd.dma
  | .bgp => s.lcd.bgp
  | .obp0 => s.lcd.obp0
  | .obp1 => s.lcd.obp1
  | .wy => s.lcd.wy
  | .wx => s.lcd.wx

/-- The ROM offset that an address below 0x8000 shows (20_memory.md R82, R83). -/
def State.romOffset (s : State) (a : Word) : Nat :=
  if a.toNat < 0x4000 then a.toNat else s.mapper.romBank s.cart * 0x4000 + (a.toNat - 0x4000)

/-- The cartridge RAM offset that an address in 0xA000..0xBFFF shows (20_memory.md R99). -/
def State.cartRamOffset (s : State) (a : Word) : Nat := s.mapper.ramBank s.cart * 0x2000 + (a.toNat - 0xA000)

/-- What a read of address `a` in a region returns (20_memory.md R82..R89). -/
def State.regionRead (s : State) (a : Word) : Region → Byte
  | .romFixed => s.cart.romByte (s.romOffset a)
  | .romBanked => s.cart.romByte (s.romOffset a)
  | .vram => s.ram.vram.read a.toNat
  | .cartRam => if s.mapper.ramOn s.cart then s.ram.cartRam.read (s.cartRamOffset a) else Config.sentinel
  | .wram => s.ram.wram.read a.toNat
  | .echo => s.ram.wram.read (a.toNat - 0x2000)
  | .oam => s.ram.oam.read a.toNat
  | .unusable => Config.sentinel
  | .io =>
    match ioRegOf a with
    | some r => s.ioRead a r
    | none => Config.sentinel
  | .hram => s.ram.hram.read a.toNat
  | .ie => s.irq.ie

/-- `MemRead(a, 1)`, the MMU's `read` (00_scope.md R7; 20_memory.md R81). It never fails (R84) and has no side effect (R92). -/
def State.memRead (s : State) (a : Word) : Byte := s.regionRead a (regionOf a)

/-- The first `n` bytes of the OAM copy from `v << 8`, in ascending order (20_memory.md R91). -/
def State.dmaCopy (s : State) (v : Byte) : Nat → State
  | 0 => s
  | n + 1 =>
    let t := s.dmaCopy v n
    { t with ram := { t.ram with oam := t.ram.oam.write (0xFE00 + n) (t.memRead (wordOf v 0 + BitVec.ofNat 16 n)) } }

/-- A write of `v` to the DMA register: stored, then 160 bytes copied (20_memory.md R91). -/
def State.dmaWrite (s : State) (v : Byte) : State := ({ s with lcd := { s.lcd with dma := v } } : State).dmaCopy v 160

/-- A write of `v` to an assigned I/O register at address `a` (20_memory.md R88, R91, R92; 60_exceptions.md R432, R433,
R447, R456, R461, R465). -/
def State.ioWrite (s : State) (a : Word) (v : Byte) : IoReg → State
  | .p1 => { s with joypad := { s.joypad with select := v.extractLsb' 4 2 } }
  | .sb => { s with link := { s.link with sb := v } }
  | .sc => { s with link := { s.link with sc := v } }
  | .div => { s with timer := { s.timer with div := 0, divCount := 0 } }
  | .tima => { s with timer := { s.timer with tima := v } }
  | .tma => { s with timer := { s.timer with tma := v } }
  | .tac => { s with timer := { s.timer with tac := v } }
  | .iflag => { s with irq := { s.irq with iflag := v } }
  | .apu => { s with apu := { regs := s.apu.regs.write a.toNat v, internal := Config.apuWrite a v s.apu.internal } }
  | .lcdc => { s with lcd := { s.lcd with lcdc := v } }
  | .stat => { s with lcd := { s.lcd with stat := (v &&& 0xF8) ||| (s.lcd.stat &&& 0x07) } }
  | .scy => { s with lcd := { s.lcd with scy := v } }
  | .scx => { s with lcd := { s.lcd with scx := v } }
  | .ly => s
  | .lyc => { s with lcd := { s.lcd with lyc := v } }
  | .dma => s.dmaWrite v
  | .bgp => { s with lcd := { s.lcd with bgp := v } }
  | .obp0 => { s with lcd := { s.lcd with obp0 := v } }
  | .obp1 => { s with lcd := { s.lcd with obp1 := v } }
  | .wy => { s with lcd := { s.lcd with wy := v } }
  | .wx => { s with lcd := { s.lcd with wx := v } }

/-- What a write of `v` to address `a` in a region does (20_memory.md R85..R91, R95, R99). -/
def State.regionWrite (s : State) (a : Word) (v : Byte) : Region → State
  | .romFixed => { s with mapper := s.mapper.write s.cart a v }
  | .romBanked => { s with mapper := s.mapper.write s.cart a v }
  | .vram => { s with ram := { s.ram with vram := s.ram.vram.write a.toNat v } }
  | .cartRam =>
    if s.mapper.ramOn s.cart then { s with ram := { s.ram with cartRam := s.ram.cartRam.write (s.cartRamOffset a) v } }
    else s
  | .wram => { s with ram := { s.ram with wram := s.ram.wram.write a.toNat v } }
  | .echo => { s with ram := { s.ram with wram := s.ram.wram.write (a.toNat - 0x2000) v } }
  | .oam => { s with ram := { s.ram with oam := s.ram.oam.write a.toNat v } }
  | .unusable => s
  | .io =>
    match ioRegOf a with
    | some r => s.ioWrite a v r
    | none => s
  | .hram => { s with ram := { s.ram with hram := s.ram.hram.write a.toNat v } }
  | .ie => { s with irq := { s.irq with ie := v } }

/-- `MemWrite(a, 1, v)`, the MMU's `write` (00_scope.md R7; 20_memory.md R81). It never fails (R84). -/
def State.memWrite (s : State) (a : Word) (v : Byte) : State := s.regionWrite a v (regionOf a)

/-- `MemRead(a, 2)`: low byte first, the second address modulo 65536 (00_scope.md R7; 20_memory.md R72). -/
def State.memRead16 (s : State) (a : Word) : Word := wordOf (s.memRead (a + 1)) (s.memRead a)

/-- `MemWrite(a, 2, v)`: the low byte at `a`, then the high byte at `a + 1` modulo 65536 (00_scope.md R7). -/
def State.memWrite16 (s : State) (a : Word) (v : Word) : State := (s.memWrite a (loByte v)).memWrite (a + 1) (hiByte v)

/-! ### The stack -/

/-- `Push16(v)` (00_scope.md R9): the high byte at SP - 1, then the low byte at SP - 2. -/
def State.push16 (s : State) (v : Word) : State :=
  let s1 := (s.setSp (s.cpu.sp - 1)).memWrite (s.cpu.sp - 1) (hiByte v)
  (s1.setSp (s.cpu.sp - 2)).memWrite (s.cpu.sp - 2) (loByte v)

/-- The value `Pop16()` returns (00_scope.md R9): low byte at SP, high byte at SP + 1. -/
def State.popValue (s : State) : Word := s.memRead16 s.cpu.sp

/-- The effect of `Pop16()` on SP (00_scope.md R9). -/
def State.popDrop (s : State) : State := s.setSp (s.cpu.sp + 2)

/-! ### Fetch -/

/-- The instruction at `a`: its bytes are read through the MMU at ascending addresses modulo 65536
(20_memory.md R71, R73; 30_encoding.md R136). Reads have no side effect (20_memory.md R92), so reading the bytes after a
shorter instruction changes nothing. -/
def State.fetchAt (s : State) (a : Word) : Instr :=
  decodeBytes (s.memRead a) (s.memRead (a + 1)) (s.memRead (a + 2))

/-- `pc <- npc`, `npc` = (pc0 + length) mod 65536 (00_scope.md R10; 60_exceptions.md R401 step 3). -/
def State.advancePc (s : State) (i : Instr) : State := s.setPc (s.cpu.pc + BitVec.ofNat 16 i.length)

/-! ### Outcomes of an instruction -/

/-- The instruction completes in `s` and its cycle count is `n`. -/
def finish (n : Nat) (s : State) : Host.Outcome State Fault Refusal := .next (s.spend n)

/-- `raise IllegalOpcode(opcode, pc0)` (60_exceptions.md R420): `faulted <- 1`, pc not advanced, nothing else changes. The
outcome is a fault that carries the state the raise leaves. -/
def State.raiseIllegal (s : State) (opcode : Byte) : Host.Outcome State Fault Refusal :=
  .fault (.illegalOpcode opcode s.cpu.pc { s with cpu := { s.cpu with faulted := true } })

/-! ### Interrupts -/

/-- A device requests interrupt `k`: `IF <- IF | (1 << k)` (60_exceptions.md R407). -/
def State.request (s : State) (k : Nat) : State := { s with irq := { s.irq with iflag := s.irq.iflag ||| bitMask k } }

/-- `IE & IF & 0x1F`: the enabled and pending interrupts (60_exceptions.md R403, R405). -/
def Irq.pending (q : Irq) : Byte := q.ie &&& q.iflag &&& 0x1F

/-- The lowest-numbered bit set in `pend`, the highest priority (60_exceptions.md R405, R408); 4 if none below is set. -/
def lowestSet (pend : Byte) : Nat :=
  if bitOf pend 0 then 0
  else if bitOf pend 1 then 1
  else if bitOf pend 2 then 2
  else if bitOf pend 3 then 3
  else 4

/-- The vector of interrupt `k`, `0x0040 + 8 * k` (60_exceptions.md R406). -/
def vectorOf (k : Nat) : Word := BitVec.ofNat 16 (0x0040 + 8 * k)

/-- Taking interrupt `k` (60_exceptions.md R405): clear its IF bit; IME, ime_pending and halted become 0; push pc; jump to
the vector. -/
def State.takeInterrupt (s : State) (k : Nat) : State :=
  let s1 : State :=
    { s with
      irq := { s.irq with iflag := s.irq.iflag &&& ~~~bitMask k }
      cpu := { s.cpu with ime := false, imePending := false, halted := false } }
  (s1.push16 s1.cpu.pc).setPc (vectorOf k)

/-- Returning from an interrupt (60_exceptions.md R412; 45_control.md R349): `pc <- Pop16(); IME <- 1`, at once. -/
def State.returnFromInterrupt (s : State) : State :=
  let s1 := s.popDrop.setPc s.popValue
  { s1 with cpu := { s1.cpu with ime := true } }

end Sys2Proof.Machine
end

