-- ==== Sys2Proof/Machine/Operands.lean ====
section
/-! DEFINITION. Operand forms: 8-bit registers, register pairs, the byte at (HL), high-page addresses, conditions
(00_scope.md R6, R8; 30_encoding.md R123..R127). -/

namespace Sys2Proof.Machine

/-- `x[n]`: the value of an 8-bit register (00_scope.md R6). -/
def State.reg (s : State) : Reg8 → Byte
  | .b => s.cpu.b
  | .c => s.cpu.c
  | .d => s.cpu.d
  | .e => s.cpu.e
  | .h => s.cpu.h
  | .l => s.cpu.l
  | .a => s.cpu.a

/-- `x[n] <- v` (00_scope.md R6). -/
def State.setReg (s : State) (r : Reg8) (v : Byte) : State :=
  match r with
  | .b => { s with cpu := { s.cpu with b := v } }
  | .c => { s with cpu := { s.cpu with c := v } }
  | .d => { s with cpu := { s.cpu with d := v } }
  | .e => { s with cpu := { s.cpu with e := v } }
  | .h => { s with cpu := { s.cpu with h := v } }
  | .l => { s with cpu := { s.cpu with l := v } }
  | .a => { s with cpu := { s.cpu with a := v } }

/-- `rr[p]`: BC, DE, HL, SP (00_scope.md R6; 30_encoding.md R124). -/
def State.pair (s : State) : Pair → Word
  | .bc => s.bc
  | .de => s.de
  | .hl => s.hl
  | .sp => s.cpu.sp

/-- `rr[p] <- v` (00_scope.md R6). -/
def State.setPair (s : State) (p : Pair) (v : Word) : State :=
  match p with
  | .bc => s.setBc v
  | .de => s.setDe v
  | .hl => s.setHl v
  | .sp => s.setSp v

/-- `rr2[p]`: BC, DE, HL, AF (00_scope.md R6; 30_encoding.md R125). -/
def State.stackPair (s : State) : StackPair → Word
  | .bc => s.bc
  | .de => s.de
  | .hl => s.hl
  | .af => wordOf s.cpu.a s.cpu.f

/-- `rr2[p] <- v`; into AF, F takes only bits 7:4 of the low byte (41_load16.md R205, R206; decision D33). -/
def State.setStackPair (s : State) (p : StackPair) (v : Word) : State :=
  match p with
  | .bc => s.setBc v
  | .de => s.setDe v
  | .hl => s.setHl v
  | .af => (s.setA (hiByte v)).setF (loByte v &&& 0xF0)

/-- Operand code 6: the byte at address HL (30_encoding.md R123). -/
def State.hlByte (s : State) : Byte := s.memRead s.hl

/-- Store to operand code 6 (30_encoding.md R123). -/
def State.setHlByte (s : State) (v : Byte) : State := s.memWrite s.hl v

/-- `0xFF00 + zext_16(n)` (30_encoding.md R127). -/
def highPage (n : Byte) : Word := 0xFF00 + zext16 n

/-- `F.Z`, F[7] (10_state.md R25). -/
def State.flagZ (s : State) : Bool := bitOf s.cpu.f 7
/-- `F.N`, F[6] (10_state.md R25). -/
def State.flagN (s : State) : Bool := bitOf s.cpu.f 6
/-- `F.H`, F[5] (10_state.md R25). -/
def State.flagH (s : State) : Bool := bitOf s.cpu.f 5
/-- `F.C`, F[4] (10_state.md R25). -/
def State.flagC (s : State) : Bool := bitOf s.cpu.f 4

/-- `Cond(cc)` (00_scope.md R8; 30_encoding.md R126). -/
def State.cond (s : State) : Cond → Bool
  | .nz => !s.flagZ
  | .z => s.flagZ
  | .nc => !s.flagC
  | .c => s.flagC

end Sys2Proof.Machine
end

