-- ==== Sys2Proof/Machine/Flags.lean ====
section
/-! DEFINITION. Every result and flag computation: exact arithmetic on unbounded naturals, then the narrowed result and
the flags as comparisons (00_scope.md R5; 42_alu8.md R229; the flag table of 10_state.md R26). -/

namespace Sys2Proof.Machine

/-- The four flags of F (10_state.md R25). -/
structure Flags where
  z : Bool
  n : Bool
  h : Bool
  c : Bool
  deriving DecidableEq, Repr

/-- F with bits 7, 6, 5, 4 = Z, N, H, C and bits 3:0 = 0 (10_state.md R25). -/
def Flags.toByte (g : Flags) : Byte := BitVec.ofBool g.z ++ BitVec.ofBool g.n ++ BitVec.ofBool g.h ++ BitVec.ofBool g.c ++ 0#4

/-- Write all four flags. -/
def State.setFlags (s : State) (g : Flags) : State := s.setF g.toByte

/-- An 8-bit result with the flags it leaves. -/
structure Alu8 where
  value : Byte
  flags : Flags
  deriving DecidableEq, Repr

/-- A 16-bit result with the flags it leaves. -/
structure Alu16 where
  value : Word
  flags : Flags
  deriving DecidableEq, Repr

/-! ### Accumulator operations (42_alu8.md R230..R253) -/

/-- `A + b + c`: ADD with `c` = false, ADC with `c` = F.C (42_alu8.md R230..R235). -/
def addWithCarry (a b : Byte) (c : Bool) : Alu8 :=
  let v := BitVec.ofNat 8 (a.toNat + b.toNat + c.toNat)
  { value := v
    flags :=
      { z := v == 0
        n := false
        h := decide (a.toNat % 16 + b.toNat % 16 + c.toNat > 0xF)
        c := decide (a.toNat + b.toNat + c.toNat > 0xFF) } }

/-- `A - b - c` modulo 256: SUB and CP with `c` = false, SBC with `c` = F.C (42_alu8.md R236..R241, R251..R253). -/
def subWithBorrow (a b : Byte) (c : Bool) : Alu8 :=
  let v := a - b - BitVec.ofNat 8 c.toNat
  { value := v
    flags :=
      { z := v == 0
        n := true
        h := decide (a.toNat % 16 < b.toNat % 16 + c.toNat)
        c := decide (a.toNat < b.toNat + c.toNat) } }

/-- `A & b` (42_alu8.md R242..R244). -/
def andBytes (a b : Byte) : Alu8 :=
  { value := a &&& b, flags := { z := (a &&& b) == 0, n := false, h := true, c := false } }

/-- `A ^ b` (42_alu8.md R245..R247). -/
def xorBytes (a b : Byte) : Alu8 :=
  { value := a ^^^ b, flags := { z := (a ^^^ b) == 0, n := false, h := false, c := false } }

/-- `A | b` (42_alu8.md R248..R250). -/
def orBytes (a b : Byte) : Alu8 :=
  { value := a ||| b, flags := { z := (a ||| b) == 0, n := false, h := false, c := false } }

/-- Increment; `c` is the carry flag, kept (42_alu8.md R254, R255). -/
def incByte (v : Byte) (c : Bool) : Alu8 :=
  { value := v + 1, flags := { z := v + 1 == 0, n := false, h := decide (v.toNat % 16 = 0xF), c := c } }

/-- Decrement; `c` is the carry flag, kept (42_alu8.md R256, R257). -/
def decByte (v : Byte) (c : Bool) : Alu8 :=
  { value := v - 1, flags := { z := v - 1 == 0, n := true, h := decide (v.toNat % 16 = 0x0), c := c } }

/-- DAA (42_alu8.md R258) on A and the flags before. -/
def decimalAdjust (a : Byte) (g : Flags) : Alu8 :=
  let low := if g.n then g.h else g.h || decide (a.toNat % 16 > 9)
  let high := if g.n then g.c else g.c || decide (a.toNat > 0x99)
  let adj : Byte := (if low then 0x06 else 0x00) ||| (if high then 0x60 else 0x00)
  let v := if g.n then a - adj else a + adj
  { value := v, flags := { z := v == 0, n := g.n, h := false, c := high } }

/-! ### 16-bit arithmetic (43_alu16.md R280, R283; 41_load16.md R203) -/

/-- `HL + v`; `z` is the zero flag, kept (43_alu16.md R280). -/
def addWords (hl v : Word) (z : Bool) : Alu16 :=
  { value := hl + v
    flags :=
      { z := z
        n := false
        h := decide (hl.toNat % 0x1000 + v.toNat % 0x1000 > 0xFFF)
        c := decide (hl.toNat + v.toNat > 0xFFFF) } }

/-- `SP + sext_16(e8)`, carries from the unsigned low bytes (43_alu16.md R283; 41_load16.md R203). -/
def addSpOffset (sp : Word) (e : Byte) : Alu16 :=
  { value := sp + sext16 e
    flags :=
      { z := false
        n := false
        h := decide (sp.toNat % 16 + e.toNat % 16 > 0xF)
        c := decide (sp.toNat % 256 + e.toNat > 0xFF) } }

/-! ### Rotates and shifts (44_rotate_shift_bit.md R300..R319) -/

/-- The result of a rotate or shift with the flags of the CB-prefixed form: Z from the result, N and H clear, C the bit
moved out. -/
def shifted (v : Byte) (out : Bool) : Alu8 :=
  { value := v, flags := { z := v == 0, n := false, h := false, c := out } }

/-- A carry as bit 0 of a byte. -/
def carryBit (c : Bool) : Byte := (BitVec.ofBool c).zeroExtend 8

/-- RLC (44_rotate_shift_bit.md R304). -/
def rotateLeft (v : Byte) : Alu8 := shifted ((v <<< 1) ||| carryBit (bitOf v 7)) (bitOf v 7)

/-- RRC (44_rotate_shift_bit.md R306). -/
def rotateRight (v : Byte) : Alu8 := shifted ((v >>> 1) ||| (carryBit (bitOf v 0) <<< 7)) (bitOf v 0)

/-- RL: through the carry flag (44_rotate_shift_bit.md R308). -/
def rotateLeftCarry (v : Byte) (c : Bool) : Alu8 := shifted ((v <<< 1) ||| carryBit c) (bitOf v 7)

/-- RR: through the carry flag (44_rotate_shift_bit.md R310). -/
def rotateRightCarry (v : Byte) (c : Bool) : Alu8 := shifted ((v >>> 1) ||| (carryBit c <<< 7)) (bitOf v 0)

/-- SLA (44_rotate_shift_bit.md R312). -/
def shiftLeft (v : Byte) : Alu8 := shifted (v <<< 1) (bitOf v 7)

/-- SRA: bit 7 kept (44_rotate_shift_bit.md R314). -/
def shiftRightArith (v : Byte) : Alu8 := shifted ((v >>> 1) ||| (v &&& 0x80)) (bitOf v 0)

/-- SWAP: C is 0 (44_rotate_shift_bit.md R316). -/
def swapNibbles (v : Byte) : Alu8 := shifted (v.extractLsb' 0 4 ++ v.extractLsb' 4 4) false

/-- SRL (44_rotate_shift_bit.md R318). -/
def shiftRight (v : Byte) : Alu8 := shifted (v >>> 1) (bitOf v 0)

/-- The flags of BIT: Z the complement of the tested bit, `c` kept (44_rotate_shift_bit.md R320, R321). -/
def bitTestFlags (v : Byte) (n : BitVec 3) (c : Bool) : Flags :=
  { z := !bitOf v n.toNat, n := false, h := true, c := c }

end Sys2Proof.Machine
end

