-- ==== Sys2Proof/Machine/Devices.lean ====
section
/-! DEFINITION. The devices that the step clocks: timer, LCD controller, APU (60_exceptions.md R430..R456), the joypad's
input event (R462), and the phases of a step around its instruction (R401 steps 4 to 7). -/

namespace Sys2Proof.Machine

/-! ### Timer (60_exceptions.md R430, R431) -/

/-- The period selected by TAC[1:0]: `[1024, 16, 64, 256]` (60_exceptions.md R431). -/
def timerPeriod (tac : Byte) : Nat :=
  match (tac.extractLsb' 0 2).toNat with
  | 0 => 1024
  | 1 => 16
  | 2 => 64
  | _ => 256

/-- One increment of TIMA: at 0xFF it reloads TMA and requests the Timer interrupt (60_exceptions.md R431). -/
def State.timaIncrement (s : State) : State :=
  if s.timer.tima = 0xFF then ({ s with timer := { s.timer with tima := s.timer.tma } } : State).request 2
  else { s with timer := { s.timer with tima := s.timer.tima + 1 } }

/-- `k` increments of TIMA. -/
def State.timaIncrements : Nat → State → State
  | 0, s => s
  | k + 1, s => timaIncrements k s.timaIncrement

/-- DIV's half of `TimerTick(n)`: the loop's increments counted by a division (60_exceptions.md R431; log entry 14). -/
def State.divTick (n : Nat) (s : State) : State :=
  let total := s.timer.divCount + n
  { s with timer := { s.timer with divCount := total % 256, div := s.timer.div + BitVec.ofNat 8 (total / 256) } }

/-- TIMA's half of `TimerTick(n)` (60_exceptions.md R431; log entry 14). -/
def State.timaTick (n : Nat) (s : State) : State :=
  if s.timer.tac.getLsbD 2 then
    let total := s.timer.timaCount + n
    let period := timerPeriod s.timer.tac
    timaIncrements (total / period) { s with timer := { s.timer with timaCount := total % period } }
  else s

/-- `TimerTick(n)` (60_exceptions.md R431). -/
def State.timerTick (n : Nat) (s : State) : State := timaTick n (divTick n s)

/-! ### LCD controller (60_exceptions.md R441..R452) -/

/-- `SetMode(m)`: the masked store of STAT[1:0] (60_exceptions.md R443, R444). -/
def State.setMode (s : State) (m : BitVec 2) : State :=
  { s with lcd := { s.lcd with stat := (s.lcd.stat &&& 0xFC) ||| m.zeroExtend 8 } }

/-- `LineCompare()` (60_exceptions.md R446). -/
def State.lineCompare (s : State) : State :=
  if s.lcd.ly = s.lcd.lyc then
    let t : State := { s with lcd := { s.lcd with stat := s.lcd.stat ||| 0x04 } }
    if bitOf s.lcd.stat 6 then t.request 1 else t
  else { s with lcd := { s.lcd with stat := s.lcd.stat &&& ~~~(0x04 : Byte) } }

/-- The arguments of `RenderLine` at the moment of delivery (60_exceptions.md R449). -/
def State.renderInput (s : State) : Config.RenderInput where
  line := s.lcd.ly
  lcdc := s.lcd.lcdc
  scy := s.lcd.scy
  scx := s.lcd.scx
  wy := s.lcd.wy
  wx := s.lcd.wx
  bgp := s.lcd.bgp
  obp0 := s.lcd.obp0
  obp1 := s.lcd.obp1
  vram := s.ram.vram
  oam := s.ram.oam

/-- `DeliverScanline(LY)`: the row and its line index go to the host (60_exceptions.md R450; log entry 7). -/
def State.deliverScanline (s : State) : State :=
  { s with out := { s.out with
      scanlines := s.out.scanlines ++ [{ line := s.lcd.ly, pixels := Config.renderLine s.renderInput }] } }

/-- LCD-STAT is requested if bit `n` of STAT is 1 (60_exceptions.md R445). -/
def State.statRequest (s : State) (n : Nat) : State := if bitOf s.lcd.stat n then s.request 1 else s

/-- The start of a line: `line_count` becomes 0 and LY advances modulo 154, with the transition into MODE1 or MODE2 and the
line compare (60_exceptions.md R443, R445). -/
def State.newLine (s : State) : State :=
  let t : State := { s with lcd := { s.lcd with lineCount := 0, ly := BitVec.ofNat 8 ((s.lcd.ly.toNat + 1) % 154) } }
  if t.lcd.ly.toNat = 144 then (((t.setMode 1).request 0).statRequest 4).lineCompare
  else if t.lcd.ly.toNat < 144 then (t.setMode 2).lineCompare
  else t

/-- A transition inside a visible line, at position 77 into MODE3 and at 246 into MODE0 (60_exceptions.md R443). -/
def State.midLine (s : State) : State :=
  if s.lcd.ly.toNat < 144 then
    if s.lcd.lineCount = 77 then s.setMode 3
    else if s.lcd.lineCount = 246 then ((s.setMode 0).deliverScanline).statRequest 3
    else s
  else s

/-- `LcdTick()` (60_exceptions.md R443). -/
def State.lcdTick (s : State) : State :=
  if s.lcd.lineCount + 1 = 456 then s.newLine
  else ({ s with lcd := { s.lcd with lineCount := s.lcd.lineCount + 1 } } : State).midLine

/-- `LcdClock(n)`: `n` times `LcdTick()` (60_exceptions.md R443). -/
def State.lcdClock : Nat → State → State
  | 0, s => s
  | n + 1, s => lcdClock n s.lcdTick

/-! ### APU (60_exceptions.md R455) -/

/-- `ApuTick(n)`: the opaque model advances and delivers its sample batches (60_exceptions.md R455; log entry 8). -/
def State.apuTick (n : Nat) (s : State) : State :=
  let r := Config.apuTick n s.apu.internal
  { s with apu := { s.apu with internal := r.1 }, out := { s.out with audio := s.out.audio ++ r.2 } }

/-- Step 5: the cycles are forwarded to the LCD controller, the timer and the APU (60_exceptions.md R400, R401). -/
def State.clockDevices (n : Nat) (s : State) : State := apuTick n (timerTick n (lcdClock n s))

/-! ### The joypad's input event (60_exceptions.md R460, R462) -/

/-- The eight keys, in the order of their bits in `keys` (60_exceptions.md R460). -/
inductive Key where
  | right | left | up | down | a | b | select | start
  deriving DecidableEq, Repr

/-- The bit of a key in `keys` (60_exceptions.md R460). -/
def Key.bit : Key → Nat
  | .right => 0
  | .left => 1
  | .up => 2
  | .down => 3
  | .a => 4
  | .b => 5
  | .select => 6
  | .start => 7

/-- `input(key, pressed)` (60_exceptions.md R462; 70_reset_and_hazards.md R514). DESIGN CHOICE (log entry 18): it also acts on
a faulted machine, and leaves `faulted` as it is. -/
def State.input (s : State) (key : Key) (pressed : Bool) : State :=
  if pressed then
    if bitOf s.joypad.keys key.bit then s
    else
      let t : State :=
        { s with
          joypad := { s.joypad with keys := s.joypad.keys ||| bitMask key.bit }
          cpu := { s.cpu with stopped := false } }
      t.request 4
  else { s with joypad := { s.joypad with keys := s.joypad.keys &&& ~~~bitMask key.bit } }

/-! ### The phases of a step around its instruction (60_exceptions.md R401) -/

/-- Nothing returned and nothing delivered yet in this step (log entry 6). -/
def State.beginStep (s : State) : State := { s with out := StepOut.empty }

/-- A step while halted fetches nothing and consumes `IDLE_CYCLES` (60_exceptions.md R402). -/
def State.idle (s : State) : State := s.spend Config.idleCycles

/-- Step 4: the delayed effect of `EI` (60_exceptions.md R401); `eiFire` is `ime_pending` as sampled in step 1. -/
def State.promoteEi (eiFire : Bool) (s : State) : State :=
  if eiFire && s.cpu.imePending then { s with cpu := { s.cpu with ime := true, imePending := false } } else s

/-- Step 6: the wake check (60_exceptions.md R403), skipped while stopped (R404). -/
def State.wakeCheck (s : State) : State :=
  if !s.cpu.stopped && s.cpu.halted && s.irq.pending != 0 then { s with cpu := { s.cpu with halted := false } } else s

/-- The cycles of a dispatch are forwarded to the devices and added to the step's count (60_exceptions.md R405, R411). -/
def State.chargeDispatch (s : State) : State :=
  if 0 < Config.irqDispatchCycles then
    (clockDevices Config.irqDispatchCycles s).spend (s.out.cycles + Config.irqDispatchCycles)
  else s

/-- Step 7: the interrupt dispatch check (60_exceptions.md R405). -/
def State.dispatchCheck (s : State) : State :=
  if s.cpu.ime && s.irq.pending != 0 && !s.cpu.stopped then (s.takeInterrupt (lowestSet s.irq.pending)).chargeDispatch
  else s

/-- Steps 4 to 7 (60_exceptions.md R401). -/
def State.finishStep (eiFire : Bool) (s : State) : State :=
  let t := s.promoteEi eiFire
  ((clockDevices t.out.cycles t).wakeCheck).dispatchCheck

end Sys2Proof.Machine
end

