-- ==== Sys2Proof/Machine/Alu16.lean ====
section
/-! DEFINITION. The meanings of the 16-bit arithmetic instructions (43_alu16.md R279..R283). -/

namespace Sys2Proof.Machine

/-- `ADD HL,rr` (R280). -/
def execAddHlRr (p : Pair) (s : State) : Host.Outcome State Fault Refusal :=
  let r := addWords s.hl (s.pair p) s.flagZ
  finish 8 ((s.setHl r.value).setFlags r.flags)

/-- `INC rr` (R281). -/
def execIncRr (p : Pair) (s : State) : Host.Outcome State Fault Refusal := finish 8 (s.setPair p (s.pair p + 1))

/-- `DEC rr` (R282). -/
def execDecRr (p : Pair) (s : State) : Host.Outcome State Fault Refusal := finish 8 (s.setPair p (s.pair p - 1))

/-- `ADD SP,e8` (R283). -/
def execAddSpE8 (e : Byte) (s : State) : Host.Outcome State Fault Refusal :=
  let r := addSpOffset s.cpu.sp e
  finish 16 ((s.setSp r.value).setFlags r.flags)

end Sys2Proof.Machine
end

