-- ==== Sys2Proof/Machine/Control.lean ====
section
/-! DEFINITION. The meanings of the control transfers (45_control.md R340..R350). pc is already npc (00_scope.md R10), so
`s.cpu.pc` is the return address of a call and the base of a relative jump. -/

namespace Sys2Proof.Machine

/-- `Push16(npc); pc <- target` (R345, R350). -/
def State.call (s : State) (target : Word) : State := (s.push16 s.cpu.pc).setPc target

/-- `pc <- Pop16()` (R347). -/
def State.return (s : State) : State := s.popDrop.setPc s.popValue

/-- `pc <- (npc + sext_16(e8)) mod 65536` (R343). -/
def State.jumpRelative (s : State) (e : Byte) : State := s.setPc (s.cpu.pc + sext16 e)

/-- `JP a16` (R340). -/
def execJpA16 (w : Word) (s : State) : Host.Outcome State Fault Refusal := finish 16 (s.setPc w)

/-- `JP cc,a16` (R341). -/
def execJpCcA16 (k : Cond) (w : Word) (s : State) : Host.Outcome State Fault Refusal :=
  if s.cond k then finish 16 (s.setPc w) else finish 12 s

/-- `JP HL` (R342). -/
def execJpHl (s : State) : Host.Outcome State Fault Refusal := finish 4 (s.setPc s.hl)

/-- `JR e8` (R343). -/
def execJrE8 (e : Byte) (s : State) : Host.Outcome State Fault Refusal := finish 12 (s.jumpRelative e)

/-- `JR cc,e8` (R344). -/
def execJrCcE8 (k : Cond) (e : Byte) (s : State) : Host.Outcome State Fault Refusal :=
  if s.cond k then finish 12 (s.jumpRelative e) else finish 8 s

/-- `CALL a16` (R345). -/
def execCallA16 (w : Word) (s : State) : Host.Outcome State Fault Refusal := finish 24 (s.call w)

/-- `CALL cc,a16` (R346). -/
def execCallCcA16 (k : Cond) (w : Word) (s : State) : Host.Outcome State Fault Refusal :=
  if s.cond k then finish 24 (s.call w) else finish 12 s

/-- `RET` (R347). -/
def execRet (s : State) : Host.Outcome State Fault Refusal := finish 16 s.return

/-- `RET cc` (R348). -/
def execRetCc (k : Cond) (s : State) : Host.Outcome State Fault Refusal :=
  if s.cond k then finish 20 s.return else finish 8 s

/-- `RETI` (R349). -/
def execReti (s : State) : Host.Outcome State Fault Refusal := finish 16 s.returnFromInterrupt

/-- `RST t` (R350): the target is `zext_16(ttt) << 3`. -/
def execRstT (t : BitVec 3) (s : State) : Host.Outcome State Fault Refusal := finish 16 (s.call (t.zeroExtend 16 <<< 3))

end Sys2Proof.Machine
end

