-- ==== Sys2Proof/Machine/Load16.lean ====
section
/-! DEFINITION. The meanings of the 16-bit loads and stack transfers (41_load16.md R200..R206). -/

namespace Sys2Proof.Machine

/-- `LD rr,d16` (R200). -/
def execLdRrD16 (p : Pair) (w : Word) (s : State) : Host.Outcome State Fault Refusal := finish 12 (s.setPair p w)

/-- `LD (a16),SP` (R201): low byte first. -/
def execLdA16Sp (w : Word) (s : State) : Host.Outcome State Fault Refusal := finish 20 (s.memWrite16 w s.cpu.sp)

/-- `LD SP,HL` (R202). -/
def execLdSpHl (s : State) : Host.Outcome State Fault Refusal := finish 8 (s.setSp s.hl)

/-- `LD HL,SP+e8` (R203). -/
def execLdHlSpE8 (e : Byte) (s : State) : Host.Outcome State Fault Refusal :=
  let r := addSpOffset s.cpu.sp e
  finish 12 ((s.setHl r.value).setFlags r.flags)

/-- `PUSH rr` (R204). -/
def execPushRr (p : StackPair) (s : State) : Host.Outcome State Fault Refusal := finish 16 (s.push16 (s.stackPair p))

/-- `POP rr` (R205). -/
def execPopRr (p : StackPair) (s : State) : Host.Outcome State Fault Refusal :=
  finish 12 (s.popDrop.setStackPair p s.popValue)

/-- `POP AF` (R206). -/
def execPopAf (s : State) : Host.Outcome State Fault Refusal := finish 12 (s.popDrop.setStackPair .af s.popValue)

end Sys2Proof.Machine
end

