-- ==== Sys2Proof/Machine/Load8.lean ====
section
/-! DEFINITION. The meanings of the 8-bit loads (40_load8.md R160..R178). pc is already npc (00_scope.md R10). -/

namespace Sys2Proof.Machine

/-- `LD r,r'` (R160). -/
def execLdRR (dst src : Reg8) (s : State) : Host.Outcome State Fault Refusal := finish 4 (s.setReg dst (s.reg src))

/-- `LD r,(HL)` (R161). -/
def execLdRHl (dst : Reg8) (s : State) : Host.Outcome State Fault Refusal := finish 8 (s.setReg dst s.hlByte)

/-- `LD (HL),r` (R162). -/
def execLdHlR (src : Reg8) (s : State) : Host.Outcome State Fault Refusal := finish 8 (s.setHlByte (s.reg src))

/-- `LD r,d8` (R163). -/
def execLdRD8 (dst : Reg8) (n : Byte) (s : State) : Host.Outcome State Fault Refusal := finish 8 (s.setReg dst n)

/-- `LD (HL),d8` (R164). -/
def execLdHlD8 (n : Byte) (s : State) : Host.Outcome State Fault Refusal := finish 12 (s.setHlByte n)

/-- `LD A,(BC)` (R165). -/
def execLdABc (s : State) : Host.Outcome State Fault Refusal := finish 8 (s.setA (s.memRead s.bc))

/-- `LD A,(DE)` (R166). -/
def execLdADe (s : State) : Host.Outcome State Fault Refusal := finish 8 (s.setA (s.memRead s.de))

/-- `LD (BC),A` (R167). -/
def execLdBcA (s : State) : Host.Outcome State Fault Refusal := finish 8 (s.memWrite s.bc s.cpu.a)

/-- `LD (DE),A` (R168). -/
def execLdDeA (s : State) : Host.Outcome State Fault Refusal := finish 8 (s.memWrite s.de s.cpu.a)

/-- `LD (HL+),A` (R169). -/
def execLdHlIncA (s : State) : Host.Outcome State Fault Refusal := finish 8 ((s.setHlByte s.cpu.a).setHl (s.hl + 1))

/-- `LD A,(HL+)` (R170). -/
def execLdAHlInc (s : State) : Host.Outcome State Fault Refusal := finish 8 ((s.setA s.hlByte).setHl (s.hl + 1))

/-- `LD (HL-),A` (R171). -/
def execLdHlDecA (s : State) : Host.Outcome State Fault Refusal := finish 8 ((s.setHlByte s.cpu.a).setHl (s.hl - 1))

/-- `LD A,(HL-)` (R172). -/
def execLdAHlDec (s : State) : Host.Outcome State Fault Refusal := finish 8 ((s.setA s.hlByte).setHl (s.hl - 1))

/-- `LDH (a8),A` (R173). -/
def execLdhA8A (n : Byte) (s : State) : Host.Outcome State Fault Refusal := finish 12 (s.memWrite (highPage n) s.cpu.a)

/-- `LDH A,(a8)` (R174). -/
def execLdhAA8 (n : Byte) (s : State) : Host.Outcome State Fault Refusal := finish 12 (s.setA (s.memRead (highPage n)))

/-- `LD (C),A` (R175). -/
def execLdCA (s : State) : Host.Outcome State Fault Refusal := finish 8 (s.memWrite (highPage s.cpu.c) s.cpu.a)

/-- `LD A,(C)` (R176). -/
def execLdAC (s : State) : Host.Outcome State Fault Refusal := finish 8 (s.setA (s.memRead (highPage s.cpu.c)))

/-- `LD (a16),A` (R177). -/
def execLdA16A (w : Word) (s : State) : Host.Outcome State Fault Refusal := finish 16 (s.memWrite w s.cpu.a)

/-- `LD A,(a16)` (R178). -/
def execLdAA16 (w : Word) (s : State) : Host.Outcome State Fault Refusal := finish 16 (s.setA (s.memRead w))

end Sys2Proof.Machine
end

