-- ==== Sys2Proof/Machine/Misc.lean ====
section
/-! DEFINITION. The meanings of the miscellaneous and CPU control instructions (46_misc.md R380..R384) and of the eleven
illegal first bytes (R385). -/

namespace Sys2Proof.Machine

/-- `NOP` (R380). -/
def execNop (s : State) : Host.Outcome State Fault Refusal := finish 4 s

/-- `HALT` (R381): `halted <- 1`. -/
def execHalt (s : State) : Host.Outcome State Fault Refusal := finish 4 { s with cpu := { s.cpu with halted := true } }

/-- `STOP` (R382): `stopped <- 1`; the second byte is ignored. -/
def execStop (_pad : Byte) (s : State) : Host.Outcome State Fault Refusal :=
  finish 4 { s with cpu := { s.cpu with stopped := true } }

/-- `DI` (R383): `IME <- 0; ime_pending <- 0`. -/
def execDi (s : State) : Host.Outcome State Fault Refusal :=
  finish 4 { s with cpu := { s.cpu with ime := false, imePending := false } }

/-- `EI` (R384): `ime_pending <- 1`. -/
def execEi (s : State) : Host.Outcome State Fault Refusal := finish 4 { s with cpu := { s.cpu with imePending := true } }

/-- First byte 0xD3 (R385; 60_exceptions.md R420). -/
def execIllegalD3 (s : State) : Host.Outcome State Fault Refusal := s.raiseIllegal 0xD3

/-- First byte 0xDB (R385; 60_exceptions.md R420). -/
def execIllegalDB (s : State) : Host.Outcome State Fault Refusal := s.raiseIllegal 0xDB

/-- First byte 0xDD (R385; 60_exceptions.md R420). -/
def execIllegalDD (s : State) : Host.Outcome State Fault Refusal := s.raiseIllegal 0xDD

/-- First byte 0xE3 (R385; 60_exceptions.md R420). -/
def execIllegalE3 (s : State) : Host.Outcome State Fault Refusal := s.raiseIllegal 0xE3

/-- First byte 0xE4 (R385; 60_exceptions.md R420). -/
def execIllegalE4 (s : State) : Host.Outcome State Fault Refusal := s.raiseIllegal 0xE4

/-- First byte 0xEB (R385; 60_exceptions.md R420). -/
def execIllegalEB (s : State) : Host.Outcome State Fault Refusal := s.raiseIllegal 0xEB

/-- First byte 0xEC (R385; 60_exceptions.md R420). -/
def execIllegalEC (s : State) : Host.Outcome State Fault Refusal := s.raiseIllegal 0xEC

/-- First byte 0xED (R385; 60_exceptions.md R420). -/
def execIllegalED (s : State) : Host.Outcome State Fault Refusal := s.raiseIllegal 0xED

/-- First byte 0xF4 (R385; 60_exceptions.md R420). -/
def execIllegalF4 (s : State) : Host.Outcome State Fault Refusal := s.raiseIllegal 0xF4

/-- First byte 0xFC (R385; 60_exceptions.md R420). -/
def execIllegalFC (s : State) : Host.Outcome State Fault Refusal := s.raiseIllegal 0xFC

/-- First byte 0xFD (R385; 60_exceptions.md R420). -/
def execIllegalFD (s : State) : Host.Outcome State Fault Refusal := s.raiseIllegal 0xFD

end Sys2Proof.Machine
end

