-- ==== Sys2Proof/Machine/Alu8.lean ====
section
/-! DEFINITION. The meanings of the 8-bit arithmetic and logic instructions (42_alu8.md R229..R261). -/

namespace Sys2Proof.Machine

/-- The four flags of F as they stand. -/
def State.flags (s : State) : Flags := { z := s.flagZ, n := s.flagN, h := s.flagH, c := s.flagC }

/-- `A <- result`, and the flags of the result. -/
def State.accumulate (s : State) (r : Alu8) : State := (s.setA r.value).setFlags r.flags

/-- `x[n] <- result`, and the flags of the result. -/
def State.resultToReg (s : State) (r : Reg8) (x : Alu8) : State := (s.setReg r x.value).setFlags x.flags

/-- `MemWrite(HL, 1, result)`, and the flags of the result. -/
def State.resultToHl (s : State) (x : Alu8) : State := (s.setHlByte x.value).setFlags x.flags

/-- `ADD A,r` (R230). -/
def execAddAR (r : Reg8) (s : State) : Host.Outcome State Fault Refusal :=
  finish 4 (s.accumulate (addWithCarry s.cpu.a (s.reg r) false))

/-- `ADD A,(HL)` (R231). -/
def execAddAHl (s : State) : Host.Outcome State Fault Refusal :=
  finish 8 (s.accumulate (addWithCarry s.cpu.a s.hlByte false))

/-- `ADD A,d8` (R232). -/
def execAddAD8 (n : Byte) (s : State) : Host.Outcome State Fault Refusal :=
  finish 8 (s.accumulate (addWithCarry s.cpu.a n false))

/-- `ADC A,r` (R233). -/
def execAdcAR (r : Reg8) (s : State) : Host.Outcome State Fault Refusal :=
  finish 4 (s.accumulate (addWithCarry s.cpu.a (s.reg r) s.flagC))

/-- `ADC A,(HL)` (R234). -/
def execAdcAHl (s : State) : Host.Outcome State Fault Refusal :=
  finish 8 (s.accumulate (addWithCarry s.cpu.a s.hlByte s.flagC))

/-- `ADC A,d8` (R235). -/
def execAdcAD8 (n : Byte) (s : State) : Host.Outcome State Fault Refusal :=
  finish 8 (s.accumulate (addWithCarry s.cpu.a n s.flagC))

/-- `SUB A,r` (R236). -/
def execSubAR (r : Reg8) (s : State) : Host.Outcome State Fault Refusal :=
  finish 4 (s.accumulate (subWithBorrow s.cpu.a (s.reg r) false))

/-- `SUB A,(HL)` (R237). -/
def execSubAHl (s : State) : Host.Outcome State Fault Refusal :=
  finish 8 (s.accumulate (subWithBorrow s.cpu.a s.hlByte false))

/-- `SUB A,d8` (R238). -/
def execSubAD8 (n : Byte) (s : State) : Host.Outcome State Fault Refusal :=
  finish 8 (s.accumulate (subWithBorrow s.cpu.a n false))

/-- `SBC A,r` (R239). -/
def execSbcAR (r : Reg8) (s : State) : Host.Outcome State Fault Refusal :=
  finish 4 (s.accumulate (subWithBorrow s.cpu.a (s.reg r) s.flagC))

/-- `SBC A,(HL)` (R240). -/
def execSbcAHl (s : State) : Host.Outcome State Fault Refusal :=
  finish 8 (s.accumulate (subWithBorrow s.cpu.a s.hlByte s.flagC))

/-- `SBC A,d8` (R241). -/
def execSbcAD8 (n : Byte) (s : State) : Host.Outcome State Fault Refusal :=
  finish 8 (s.accumulate (subWithBorrow s.cpu.a n s.flagC))

/-- `AND A,r` (R242). -/
def execAndAR (r : Reg8) (s : State) : Host.Outcome State Fault Refusal :=
  finish 4 (s.accumulate (andBytes s.cpu.a (s.reg r)))

/-- `AND A,(HL)` (R243). -/
def execAndAHl (s : State) : Host.Outcome State Fault Refusal :=
  finish 8 (s.accumulate (andBytes s.cpu.a s.hlByte))

/-- `AND A,d8` (R244). -/
def execAndAD8 (n : Byte) (s : State) : Host.Outcome State Fault Refusal :=
  finish 8 (s.accumulate (andBytes s.cpu.a n))

/-- `XOR A,r` (R245). -/
def execXorAR (r : Reg8) (s : State) : Host.Outcome State Fault Refusal :=
  finish 4 (s.accumulate (xorBytes s.cpu.a (s.reg r)))

/-- `XOR A,(HL)` (R246). -/
def execXorAHl (s : State) : Host.Outcome State Fault Refusal :=
  finish 8 (s.accumulate (xorBytes s.cpu.a s.hlByte))

/-- `XOR A,d8` (R247). -/
def execXorAD8 (n : Byte) (s : State) : Host.Outcome State Fault Refusal :=
  finish 8 (s.accumulate (xorBytes s.cpu.a n))

/-- `OR A,r` (R248). -/
def execOrAR (r : Reg8) (s : State) : Host.Outcome State Fault Refusal :=
  finish 4 (s.accumulate (orBytes s.cpu.a (s.reg r)))

/-- `OR A,(HL)` (R249). -/
def execOrAHl (s : State) : Host.Outcome State Fault Refusal :=
  finish 8 (s.accumulate (orBytes s.cpu.a s.hlByte))

/-- `OR A,d8` (R250). -/
def execOrAD8 (n : Byte) (s : State) : Host.Outcome State Fault Refusal :=
  finish 8 (s.accumulate (orBytes s.cpu.a n))

/-- `CP A,r` (R251): the result is not written. -/
def execCpAR (r : Reg8) (s : State) : Host.Outcome State Fault Refusal :=
  finish 4 (s.setFlags (subWithBorrow s.cpu.a (s.reg r) false).flags)

/-- `CP A,(HL)` (R252): the result is not written. -/
def execCpAHl (s : State) : Host.Outcome State Fault Refusal :=
  finish 8 (s.setFlags (subWithBorrow s.cpu.a s.hlByte false).flags)

/-- `CP A,d8` (R253): the result is not written. -/
def execCpAD8 (n : Byte) (s : State) : Host.Outcome State Fault Refusal :=
  finish 8 (s.setFlags (subWithBorrow s.cpu.a n false).flags)

/-- `INC r` (R254). -/
def execIncR (r : Reg8) (s : State) : Host.Outcome State Fault Refusal :=
  finish 4 (s.resultToReg r (incByte (s.reg r) s.flagC))

/-- `INC (HL)` (R255). -/
def execIncHl (s : State) : Host.Outcome State Fault Refusal := finish 12 (s.resultToHl (incByte s.hlByte s.flagC))

/-- `DEC r` (R256). -/
def execDecR (r : Reg8) (s : State) : Host.Outcome State Fault Refusal :=
  finish 4 (s.resultToReg r (decByte (s.reg r) s.flagC))

/-- `DEC (HL)` (R257). -/
def execDecHl (s : State) : Host.Outcome State Fault Refusal := finish 12 (s.resultToHl (decByte s.hlByte s.flagC))

/-- `DAA` (R258). -/
def execDaa (s : State) : Host.Outcome State Fault Refusal := finish 4 (s.accumulate (decimalAdjust s.cpu.a s.flags))

/-- `CPL` (R259). -/
def execCpl (s : State) : Host.Outcome State Fault Refusal :=
  finish 4 ((s.setA (s.cpu.a ^^^ 0xFF)).setFlags { s.flags with n := true, h := true })

/-- `SCF` (R260). -/
def execScf (s : State) : Host.Outcome State Fault Refusal :=
  finish 4 (s.setFlags { s.flags with n := false, h := false, c := true })

/-- `CCF` (R261). -/
def execCcf (s : State) : Host.Outcome State Fault Refusal :=
  finish 4 (s.setFlags { s.flags with n := false, h := false, c := !s.flagC })

end Sys2Proof.Machine
end

