-- ==== Sys2Proof/Machine/RotateShiftBit.lean ====
section
/-! DEFINITION. The meanings of the rotates, shifts and bit operations (44_rotate_shift_bit.md R300..R325). -/

namespace Sys2Proof.Machine

/-- A one-byte accumulator rotate: A and C from the result, Z, N and H clear (R300..R303). -/
def State.rotateA (s : State) (x : Alu8) : State :=
  (s.setA x.value).setFlags { z := false, n := false, h := false, c := x.flags.c }

/-- `RLCA` (R300). -/
def execRlca (s : State) : Host.Outcome State Fault Refusal := finish 4 (s.rotateA (rotateLeft s.cpu.a))

/-- `RRCA` (R301). -/
def execRrca (s : State) : Host.Outcome State Fault Refusal := finish 4 (s.rotateA (rotateRight s.cpu.a))

/-- `RLA` (R302). -/
def execRla (s : State) : Host.Outcome State Fault Refusal := finish 4 (s.rotateA (rotateLeftCarry s.cpu.a s.flagC))

/-- `RRA` (R303). -/
def execRra (s : State) : Host.Outcome State Fault Refusal := finish 4 (s.rotateA (rotateRightCarry s.cpu.a s.flagC))

/-- `RLC r` (R304). -/
def execRlcR (r : Reg8) (s : State) : Host.Outcome State Fault Refusal :=
  finish 8 (s.resultToReg r (rotateLeft (s.reg r)))

/-- `RLC (HL)` (R305). -/
def execRlcHl (s : State) : Host.Outcome State Fault Refusal :=
  finish 16 (s.resultToHl (rotateLeft s.hlByte))

/-- `RRC r` (R306). -/
def execRrcR (r : Reg8) (s : State) : Host.Outcome State Fault Refusal :=
  finish 8 (s.resultToReg r (rotateRight (s.reg r)))

/-- `RRC (HL)` (R307). -/
def execRrcHl (s : State) : Host.Outcome State Fault Refusal :=
  finish 16 (s.resultToHl (rotateRight s.hlByte))

/-- `RL r` (R308). -/
def execRlR (r : Reg8) (s : State) : Host.Outcome State Fault Refusal :=
  finish 8 (s.resultToReg r (rotateLeftCarry (s.reg r) s.flagC))

/-- `RL (HL)` (R309). -/
def execRlHl (s : State) : Host.Outcome State Fault Refusal :=
  finish 16 (s.resultToHl (rotateLeftCarry s.hlByte s.flagC))

/-- `RR r` (R310). -/
def execRrR (r : Reg8) (s : State) : Host.Outcome State Fault Refusal :=
  finish 8 (s.resultToReg r (rotateRightCarry (s.reg r) s.flagC))

/-- `RR (HL)` (R311). -/
def execRrHl (s : State) : Host.Outcome State Fault Refusal :=
  finish 16 (s.resultToHl (rotateRightCarry s.hlByte s.flagC))

/-- `SLA r` (R312). -/
def execSlaR (r : Reg8) (s : State) : Host.Outcome State Fault Refusal :=
  finish 8 (s.resultToReg r (shiftLeft (s.reg r)))

/-- `SLA (HL)` (R313). -/
def execSlaHl (s : State) : Host.Outcome State Fault Refusal :=
  finish 16 (s.resultToHl (shiftLeft s.hlByte))

/-- `SRA r` (R314). -/
def execSraR (r : Reg8) (s : State) : Host.Outcome State Fault Refusal :=
  finish 8 (s.resultToReg r (shiftRightArith (s.reg r)))

/-- `SRA (HL)` (R315). -/
def execSraHl (s : State) : Host.Outcome State Fault Refusal :=
  finish 16 (s.resultToHl (shiftRightArith s.hlByte))

/-- `SWAP r` (R316). -/
def execSwapR (r : Reg8) (s : State) : Host.Outcome State Fault Refusal :=
  finish 8 (s.resultToReg r (swapNibbles (s.reg r)))

/-- `SWAP (HL)` (R317). -/
def execSwapHl (s : State) : Host.Outcome State Fault Refusal :=
  finish 16 (s.resultToHl (swapNibbles s.hlByte))

/-- `SRL r` (R318). -/
def execSrlR (r : Reg8) (s : State) : Host.Outcome State Fault Refusal :=
  finish 8 (s.resultToReg r (shiftRight (s.reg r)))

/-- `SRL (HL)` (R319). -/
def execSrlHl (s : State) : Host.Outcome State Fault Refusal :=
  finish 16 (s.resultToHl (shiftRight s.hlByte))

/-- `BIT b,r` (R320). -/
def execBitR (n : BitVec 3) (r : Reg8) (s : State) : Host.Outcome State Fault Refusal :=
  finish 8 (s.setFlags (bitTestFlags (s.reg r) n s.flagC))

/-- `BIT b,(HL)` (R321). -/
def execBitHl (n : BitVec 3) (s : State) : Host.Outcome State Fault Refusal :=
  finish 12 (s.setFlags (bitTestFlags s.hlByte n s.flagC))

/-- `RES b,r` (R322). -/
def execResR (n : BitVec 3) (r : Reg8) (s : State) : Host.Outcome State Fault Refusal :=
  finish 8 (s.setReg r (s.reg r &&& ~~~bitMask n.toNat))

/-- `RES b,(HL)` (R323). -/
def execResHl (n : BitVec 3) (s : State) : Host.Outcome State Fault Refusal :=
  finish 16 (s.setHlByte (s.hlByte &&& ~~~bitMask n.toNat))

/-- `SET b,r` (R324). -/
def execSetR (n : BitVec 3) (r : Reg8) (s : State) : Host.Outcome State Fault Refusal :=
  finish 8 (s.setReg r (s.reg r ||| bitMask n.toNat))

/-- `SET b,(HL)` (R325). -/
def execSetHl (n : BitVec 3) (s : State) : Host.Outcome State Fault Refusal :=
  finish 16 (s.setHlByte (s.hlByte ||| bitMask n.toNat))

end Sys2Proof.Machine
end

