-- ==== Sys2Proof/Machine/Dispatch.lean ====
section
/-! DEFINITION. One arm per instruction: the operation of step 3 of 60_exceptions.md R401, on a state whose pc is already
npc. Each meaning also sets the step's cycle count. -/

namespace Sys2Proof.Machine

def exec (i : Instr) (s : State) : Host.Outcome State Fault Refusal :=
  match i with
  -- 8-bit loads, 40_load8.md R160..R178
  | .ldRR dst src => Sys2Proof.Machine.execLdRR dst src s
  | .ldRHl dst => Sys2Proof.Machine.execLdRHl dst s
  | .ldHlR src => Sys2Proof.Machine.execLdHlR src s
  | .ldRD8 dst n => Sys2Proof.Machine.execLdRD8 dst n s
  | .ldHlD8 n => Sys2Proof.Machine.execLdHlD8 n s
  | .ldABc => Sys2Proof.Machine.execLdABc s
  | .ldADe => Sys2Proof.Machine.execLdADe s
  | .ldBcA => Sys2Proof.Machine.execLdBcA s
  | .ldDeA => Sys2Proof.Machine.execLdDeA s
  | .ldHlIncA => Sys2Proof.Machine.execLdHlIncA s
  | .ldAHlInc => Sys2Proof.Machine.execLdAHlInc s
  | .ldHlDecA => Sys2Proof.Machine.execLdHlDecA s
  | .ldAHlDec => Sys2Proof.Machine.execLdAHlDec s
  | .ldhA8A n => Sys2Proof.Machine.execLdhA8A n s
  | .ldhAA8 n => Sys2Proof.Machine.execLdhAA8 n s
  | .ldCA => Sys2Proof.Machine.execLdCA s
  | .ldAC => Sys2Proof.Machine.execLdAC s
  | .ldA16A w => Sys2Proof.Machine.execLdA16A w s
  | .ldAA16 w => Sys2Proof.Machine.execLdAA16 w s
  -- 16-bit loads and stack transfers, 41_load16.md R200..R206
  | .ldRrD16 p w => Sys2Proof.Machine.execLdRrD16 p w s
  | .ldA16Sp w => Sys2Proof.Machine.execLdA16Sp w s
  | .ldSpHl => Sys2Proof.Machine.execLdSpHl s
  | .ldHlSpE8 e => Sys2Proof.Machine.execLdHlSpE8 e s
  | .pushRr p => Sys2Proof.Machine.execPushRr p s
  | .popRr p => Sys2Proof.Machine.execPopRr p s
  | .popAf => Sys2Proof.Machine.execPopAf s
  -- 8-bit arithmetic and logic, 42_alu8.md R230..R261
  | .addAR r => Sys2Proof.Machine.execAddAR r s
  | .addAHl => Sys2Proof.Machine.execAddAHl s
  | .addAD8 n => Sys2Proof.Machine.execAddAD8 n s
  | .adcAR r => Sys2Proof.Machine.execAdcAR r s
  | .adcAHl => Sys2Proof.Machine.execAdcAHl s
  | .adcAD8 n => Sys2Proof.Machine.execAdcAD8 n s
  | .subAR r => Sys2Proof.Machine.execSubAR r s
  | .subAHl => Sys2Proof.Machine.execSubAHl s
  | .subAD8 n => Sys2Proof.Machine.execSubAD8 n s
  | .sbcAR r => Sys2Proof.Machine.execSbcAR r s
  | .sbcAHl => Sys2Proof.Machine.execSbcAHl s
  | .sbcAD8 n => Sys2Proof.Machine.execSbcAD8 n s
  | .andAR r => Sys2Proof.Machine.execAndAR r s
  | .andAHl => Sys2Proof.Machine.execAndAHl s
  | .andAD8 n => Sys2Proof.Machine.execAndAD8 n s
  | .xorAR r => Sys2Proof.Machine.execXorAR r s
  | .xorAHl => Sys2Proof.Machine.execXorAHl s
  | .xorAD8 n => Sys2Proof.Machine.execXorAD8 n s
  | .orAR r => Sys2Proof.Machine.execOrAR r s
  | .orAHl => Sys2Proof.Machine.execOrAHl s
  | .orAD8 n => Sys2Proof.Machine.execOrAD8 n s
  | .cpAR r => Sys2Proof.Machine.execCpAR r s
  | .cpAHl => Sys2Proof.Machine.execCpAHl s
  | .cpAD8 n => Sys2Proof.Machine.execCpAD8 n s
  | .incR r => Sys2Proof.Machine.execIncR r s
  | .incHl => Sys2Proof.Machine.execIncHl s
  | .decR r => Sys2Proof.Machine.execDecR r s
  | .decHl => Sys2Proof.Machine.execDecHl s
  | .daa => Sys2Proof.Machine.execDaa s
  | .cpl => Sys2Proof.Machine.execCpl s
  | .scf => Sys2Proof.Machine.execScf s
  | .ccf => Sys2Proof.Machine.execCcf s
  -- 16-bit arithmetic, 43_alu16.md R280..R283
  | .addHlRr p => Sys2Proof.Machine.execAddHlRr p s
  | .incRr p => Sys2Proof.Machine.execIncRr p s
  | .decRr p => Sys2Proof.Machine.execDecRr p s
  | .addSpE8 e => Sys2Proof.Machine.execAddSpE8 e s
  -- rotates, shifts and bit operations, 44_rotate_shift_bit.md R300..R325
  | .rlca => Sys2Proof.Machine.execRlca s
  | .rrca => Sys2Proof.Machine.execRrca s
  | .rla => Sys2Proof.Machine.execRla s
  | .rra => Sys2Proof.Machine.execRra s
  | .rlcR r => Sys2Proof.Machine.execRlcR r s
  | .rlcHl => Sys2Proof.Machine.execRlcHl s
  | .rrcR r => Sys2Proof.Machine.execRrcR r s
  | .rrcHl => Sys2Proof.Machine.execRrcHl s
  | .rlR r => Sys2Proof.Machine.execRlR r s
  | .rlHl => Sys2Proof.Machine.execRlHl s
  | .rrR r => Sys2Proof.Machine.execRrR r s
  | .rrHl => Sys2Proof.Machine.execRrHl s
  | .slaR r => Sys2Proof.Machine.execSlaR r s
  | .slaHl => Sys2Proof.Machine.execSlaHl s
  | .sraR r => Sys2Proof.Machine.execSraR r s
  | .sraHl => Sys2Proof.Machine.execSraHl s
  | .swapR r => Sys2Proof.Machine.execSwapR r s
  | .swapHl => Sys2Proof.Machine.execSwapHl s
  | .srlR r => Sys2Proof.Machine.execSrlR r s
  | .srlHl => Sys2Proof.Machine.execSrlHl s
  | .bitR n r => Sys2Proof.Machine.execBitR n r s
  | .bitHl n => Sys2Proof.Machine.execBitHl n s
  | .resR n r => Sys2Proof.Machine.execResR n r s
  | .resHl n => Sys2Proof.Machine.execResHl n s
  | .setR n r => Sys2Proof.Machine.execSetR n r s
  | .setHl n => Sys2Proof.Machine.execSetHl n s
  -- control transfer, 45_control.md R340..R350
  | .jpA16 w => Sys2Proof.Machine.execJpA16 w s
  | .jpCcA16 k w => Sys2Proof.Machine.execJpCcA16 k w s
  | .jpHl => Sys2Proof.Machine.execJpHl s
  | .jrE8 e => Sys2Proof.Machine.execJrE8 e s
  | .jrCcE8 k e => Sys2Proof.Machine.execJrCcE8 k e s
  | .callA16 w => Sys2Proof.Machine.execCallA16 w s
  | .callCcA16 k w => Sys2Proof.Machine.execCallCcA16 k w s
  | .ret => Sys2Proof.Machine.execRet s
  | .retCc k => Sys2Proof.Machine.execRetCc k s
  | .reti => Sys2Proof.Machine.execReti s
  | .rstT t => Sys2Proof.Machine.execRstT t s
  -- miscellaneous and CPU control, 46_misc.md R380..R384; `pad` is STOP's ignored second byte
  | .nop => Sys2Proof.Machine.execNop s
  | .halt => Sys2Proof.Machine.execHalt s
  | .stop pad => Sys2Proof.Machine.execStop pad s
  | .di => Sys2Proof.Machine.execDi s
  | .ei => Sys2Proof.Machine.execEi s
  -- the eleven illegal first bytes, 46_misc.md R385
  | .illegalD3 => Sys2Proof.Machine.execIllegalD3 s
  | .illegalDB => Sys2Proof.Machine.execIllegalDB s
  | .illegalDD => Sys2Proof.Machine.execIllegalDD s
  | .illegalE3 => Sys2Proof.Machine.execIllegalE3 s
  | .illegalE4 => Sys2Proof.Machine.execIllegalE4 s
  | .illegalEB => Sys2Proof.Machine.execIllegalEB s
  | .illegalEC => Sys2Proof.Machine.execIllegalEC s
  | .illegalED => Sys2Proof.Machine.execIllegalED s
  | .illegalF4 => Sys2Proof.Machine.execIllegalF4 s
  | .illegalFC => Sys2Proof.Machine.execIllegalFC s
  | .illegalFD => Sys2Proof.Machine.execIllegalFD s

end Sys2Proof.Machine
end

