-- ==== Sys2Proof/Machine/Place.lean ====
section
/-! DEFINITION. Storing bytes behind the address map without a write's side effects: the stand-in for the host's load of a
program (70_reset_and_hazards.md R516; log entries 3 and 11). No step calls it. -/

namespace Sys2Proof.Machine

/-- True if a byte of storage stands behind address `a`, so that `poke` can set what a read of it returns: every region but
the unusable one, the I/O block, ROM beyond the image, and cartridge RAM that does not respond. -/
def State.backed (s : State) (a : Word) : Bool :=
  match regionOf a with
  | .romFixed => decide (s.romOffset a < s.cart.romLength)
  | .romBanked => decide (s.romOffset a < s.cart.romLength)
  | .cartRam => s.mapper.ramOn s.cart
  | .unusable => false
  | .io => false
  | .vram => true
  | .wram => true
  | .echo => true
  | .oam => true
  | .hram => true
  | .ie => true

/-- Set the byte of storage behind address `a`, ROM included, with no other effect. -/
def State.poke (s : State) (a : Word) (v : Byte) : State :=
  match regionOf a with
  | .romFixed => { s with cart := { s.cart with rom := s.cart.rom.write (s.romOffset a) v } }
  | .romBanked => { s with cart := { s.cart with rom := s.cart.rom.write (s.romOffset a) v } }
  | .vram => { s with ram := { s.ram with vram := s.ram.vram.write a.toNat v } }
  | .cartRam => { s with ram := { s.ram with cartRam := s.ram.cartRam.write (s.cartRamOffset a) v } }
  | .wram => { s with ram := { s.ram with wram := s.ram.wram.write a.toNat v } }
  | .echo => { s with ram := { s.ram with wram := s.ram.wram.write (a.toNat - 0x2000) v } }
  | .oam => { s with ram := { s.ram with oam := s.ram.oam.write a.toNat v } }
  | .unusable => s
  | .io => s
  | .hram => { s with ram := { s.ram with hram := s.ram.hram.write a.toNat v } }
  | .ie => { s with irq := { s.irq with ie := v } }

/-- True if the three bytes a fetch at `a` reads are all backed by storage. -/
def State.fetchable (s : State) (a : Word) : Bool := s.backed a && s.backed (a + 1) && s.backed (a + 2)

/-- A running machine (not halted, stopped or faulted) whose pc is at three backed bytes: pc itself where it is, else the
start of work RAM (log entry 11). -/
def State.readyToFetch (s : State) : State :=
  { s with cpu := { s.cpu with
      halted := false, stopped := false, faulted := false, pc := if s.fetchable s.cpu.pc then s.cpu.pc else 0xC000 } }

/-- Place three bytes where the next step fetches (log entry 11). -/
def State.placeInstruction (s : State) (b0 b1 b2 : Byte) : State :=
  let t := s.readyToFetch
  ((t.poke t.cpu.pc b0).poke (t.cpu.pc + 1) b1).poke (t.cpu.pc + 2) b2

end Sys2Proof.Machine
end

