-- ==== Sys2Proof/Machine/Step.lean ====
section
/-! DEFINITION. One step of the machine (60_exceptions.md R401) and the host's way to place one instruction. -/

namespace Sys2Proof.Machine

/-- Steps 2 and 3 of 60_exceptions.md R401: while halted nothing is fetched (R402); otherwise the instruction at pc is
fetched, pc advances by its length, and its operation runs. -/
def runInstruction (s : State) : Host.Outcome State Fault Refusal :=
  if s.cpu.halted then .next s.idle else exec (s.fetchAt s.cpu.pc) (s.advancePc (s.fetchAt s.cpu.pc))

/-- `Step()` (60_exceptions.md R401): a faulted machine has no step (R421), a stopped one returns 0 and changes nothing
(R404). -/
def step (s : State) : Host.Outcome State Fault Refusal :=
  if s.cpu.faulted then .refused .machineFaulted
  else if s.cpu.stopped then .next s.beginStep
  else
    match runInstruction s.beginStep with
    | .next t => .next (t.finishStep s.cpu.imePending)
    | .fault r => .fault r
    | .refused r => .refused r

/-- `s` with the instruction of a table word stored where the next step fetches it (log entry 11). -/
def State.withFetchWord (s : State) (nbits w : Nat) : State :=
  s.placeInstruction (tableByte nbits w 0) (tableByte nbits w 1) (tableByte nbits w 2)

end Sys2Proof.Machine
end

