-- ==== Sys2Proof/Machine/Facade.lean ====
section
/-! DEFINITION. The host operations between steps (70_reset_and_hazards.md R510..R517; log entry 16). No step calls them.
`input` (R514) is `State.input` of Machine/Devices.lean. -/

namespace Sys2Proof.Machine

/-! ### Loading a cartridge (70_reset_and_hazards.md R516; 20_memory.md R96, R97, R100, R101) -/

/-- Why a load fails (70_reset_and_hazards.md R516; 20_memory.md R101; log entry 10). -/
inductive LoadError where
  /-- The image ends before the header bytes the loader reads. -/
  | truncatedHeader
  /-- The mapper type byte names no mapper the implementation supports. -/
  | unsupportedMapper (code : Byte)
  /-- The RAM size byte is none of those 20_memory.md R101 lists. -/
  | malformedRamSize (code : Byte)
  deriving DecidableEq, Repr

/-- The mapper kind a header type byte selects (20_memory.md R96, R97, R100). -/
def mapperKindOf (code : Byte) : Except LoadError MapperKind :=
  if code = 0x00 then .ok .romOnly
  else if code.toNat ≤ 0x03 then .ok .mbc1
  else if Config.mapperSupported code then .ok (.supplied code)
  else .error (.unsupportedMapper code)

/-- `ROM_BANKS` from header byte 0x0148 (20_memory.md R101). -/
def romBanksOf (code : Byte) : Nat := 2 <<< code.toNat

/-- `RAM_BANKS` from header byte 0x0149 (20_memory.md R101). -/
def ramBanksOf (code : Byte) : Except LoadError Nat :=
  match code.toNat with
  | 0 => .ok 0
  | 1 => .ok 1
  | 2 => .ok 1
  | 3 => .ok 4
  | _ => .error (.malformedRamSize code)

/-- The cartridge a ROM image describes: the header is 0x0104..0x014F (20_memory.md R93), and a shorter image is truncated. -/
def Cartridge.parse (bytes : List Byte) : Except LoadError Cartridge :=
  if bytes.length < 0x150 then .error .truncatedHeader
  else
    match mapperKindOf (bytes.getD 0x147 0), ramBanksOf (bytes.getD 0x149 0) with
    | .ok kind, .ok ramBanks =>
      .ok
        { rom := Memory.ofBytes 0 bytes
          romLength := bytes.length
          kind := kind
          romBanks := romBanksOf (bytes.getD 0x148 0)
          ramBanks := ramBanks }
    | .error e, _ => .error e
    | _, .error e => .error e

/-- `loadROM(bytes)` with the parameter `RAM_INIT` (70_reset_and_hazards.md R504, R516): a machine in the reset state. -/
def loadRom (bytes : List Byte) (ramInit : Rams) : Except LoadError State :=
  match Cartridge.parse bytes with
  | .ok cart => .ok (State.powerOn cart ramInit)
  | .error e => .error e

/-- What the host holds after asking for a load with the machine `current` running: a failed load leaves it untouched
(70_reset_and_hazards.md R516). -/
def reload (bytes : List Byte) (ramInit : Rams) (current : Option State) : Option State :=
  match loadRom bytes ramInit with
  | .ok s => some s
  | .error _ => current

/-- `reset()`: everything but the cartridge and the RAM contents (70_reset_and_hazards.md R501, R504). -/
def State.hostReset (s : State) : State := State.powerOn s.cart s.ram

/-! ### Memory access (70_reset_and_hazards.md R513; 20_memory.md R115) -/

/-- `readMemory(addr)`, the address modulo 65536. -/
def State.readMemory (s : State) (addr : Nat) : Byte := s.memRead (BitVec.ofNat 16 addr)

/-- `writeMemory(addr, value)`, the address modulo 65536 and the value modulo 256. -/
def State.writeMemory (s : State) (addr value : Nat) : State := s.memWrite (BitVec.ofNat 16 addr) (BitVec.ofNat 8 value)

/-! ### Running (70_reset_and_hazards.md R511, R512) -/

/-- How a run of steps ended. -/
inductive Report where
  /-- All the steps asked for were taken. -/
  | completed
  /-- A step raised the fault, and the run stopped there. -/
  | fault (r : Fault)
  /-- The machine has no step: it faulted before. -/
  | noStep (r : Refusal)
  /-- The bound on the number of steps ran out (only `emulateFrame` has one; the spec's own operation then goes on). -/
  | unfinished
  deriving DecidableEq, Repr

/-- A run of steps: the machine it leaves, what it delivered to the callbacks (70_reset_and_hazards.md R515), how it ended. -/
structure Run where
  state : State
  scanlines : List Scanline
  audio : List (List Config.Sample)
  report : Report
  deriving DecidableEq, Repr

/-- A run of no step. -/
def Run.stay (s : State) (report : Report) : Run := { state := s, scanlines := [], audio := [], report := report }

/-- `r` preceded by a step that delivered `out`. -/
def Run.after (out : StepOut) (r : Run) : Run :=
  { r with scanlines := out.scanlines ++ r.scanlines, audio := out.audio ++ r.audio }

/-- One step, then `go`; a fault or the absence of a step ends the run (60_exceptions.md R421). -/
def Run.stepThen (s : State) (go : State → Run) : Run :=
  match step s with
  | .next t => (go t).after t.out
  | .fault (.illegalOpcode opcode addr t) => Run.stay t (.fault (.illegalOpcode opcode addr t))
  | .refused r => Run.stay s (.noStep r)

/-- `update(steps)` (70_reset_and_hazards.md R511). -/
def update : Nat → State → Run
  | 0, s => Run.stay s .completed
  | n + 1, s => Run.stepThen s (update n)

/-- Step until LY = `target`, at most `fuel` steps. -/
def stepUntilLine (target : Byte) : Nat → State → Run
  | 0, s => Run.stay s (if s.lcd.ly = target then .completed else .unfinished)
  | fuel + 1, s => if s.lcd.ly = target then Run.stay s .completed else Run.stepThen s (stepUntilLine target fuel)

/-- `second` from where `first` ended, if `first` completed. -/
def Run.andThen (first : Run) (second : State → Run) : Run :=
  match first.report with
  | .completed =>
    let r := second first.state
    { r with scanlines := first.scanlines ++ r.scanlines, audio := first.audio ++ r.audio }
  | .fault _ => first
  | .noStep _ => first
  | .unfinished => first

/-- `emulateFrame()` (70_reset_and_hazards.md R512), each of its two loops bounded by `fuel` steps: on a stopped machine the
spec's operation does not return, and this one reports `unfinished` (log entry 16). -/
def emulateFrame (fuel : Nat) (s : State) : Run := (stepUntilLine 0 fuel s).andThen (stepUntilLine 144 fuel)

/-! ### Snapshots (70_reset_and_hazards.md R517; 10_state.md R39) -/

/-- The snapshot: the state inventory without the ROM (10_state.md R39). Its byte layout is not modelled (log entry 16). -/
structure Snapshot where
  cpu : Cpu
  irq : Irq
  timer : Timer
  lcd : Lcd
  joypad : Joypad
  link : Link
  apu : Apu
  mapper : Mapper
  ram : Rams
  deriving DecidableEq, Repr

/-- `serialize()`. -/
def State.serialize (s : State) : Snapshot where
  cpu := s.cpu
  irq := s.irq
  timer := s.timer
  lcd := s.lcd
  joypad := s.joypad
  link := s.link
  apu := s.apu
  mapper := s.mapper
  ram := s.ram

/-- `deserialize(bytes)` on a machine with the cartridge of `s`: every item of the snapshot replaces that of the machine
(10_state.md R35, R39; 70_reset_and_hazards.md R517), but no restore clears `faulted`, which is "cleared only by reset or by
loading a ROM" (10_state.md R31; 60_exceptions.md R421, R472). DESIGN CHOICE (log entry 18): on a faulted machine the other
items are restored all the same. -/
def State.deserialize (s : State) (d : Snapshot) : State where
  cpu := { d.cpu with faulted := s.cpu.faulted || d.cpu.faulted }
  irq := d.irq
  timer := d.timer
  lcd := d.lcd
  joypad := d.joypad
  link := d.link
  apu := d.apu
  mapper := d.mapper
  cart := s.cart
  ram := d.ram
  out := StepOut.empty

end Sys2Proof.Machine
end

