-- ==== Sys2Proof/Safety.lean ====
section
/-! DEFINITION. What claims are stated in: the invariant of the machine, its reachable states, the shapes of a completed
instruction, which addresses a store can change, and the arithmetic of the rules on unbounded numbers. -/

namespace Sys2Proof.Machine

/-! ### The invariant -/

/-- A canonical store whose keys all lie in `lo ≤ k < hi`. -/
def Memory.within (lo hi : Nat) (m : Memory) : Bool := Memory.wfFrom lo m && m.all fun cell => decide (cell.1 < hi)

/-- Every store of the machine is canonical and lists only locations it owns (20_memory.md R81, R82, R88, R99). -/
structure State.Stored (s : State) : Prop where
  vram : s.ram.vram.within 0x8000 0xA000 = true
  cartRam : s.ram.cartRam.within 0 (s.cart.ramBanks * 0x2000) = true
  wram : s.ram.wram.within 0xC000 0xE000 = true
  oam : s.ram.oam.within 0xFE00 0xFEA0 = true
  hram : s.ram.hram.within 0xFF80 0xFFFF = true
  apu : s.apu.regs.within 0xFF10 0xFF40 = true
  rom : s.cart.rom.within 0 s.cart.romLength = true

/-- The mode code that the timing table gives a position (60_exceptions.md R442). -/
def modeAt (line position : Nat) : BitVec 2 :=
  if 144 ≤ line then 1 else if position < 77 then 2 else if position < 246 then 3 else 0

/-- "mode and line index always match the table" (60_exceptions.md R442), with the ranges of R441. -/
structure Lcd.Synced (l : Lcd) : Prop where
  line : l.ly.toNat < 154
  position : l.lineCount < 456
  mode : l.stat.extractLsb' 0 2 = modeAt l.ly.toNat l.lineCount

/-- What every step keeps (10_state.md R25; 20_memory.md R97; 60_exceptions.md R430, R442, R448). -/
structure State.Inv (s : State) : Prop where
  stored : s.Stored
  flags : s.cpu.f.extractLsb' 0 4 = 0
  lcd : s.lcd.Synced
  aligned : s.lcd.lineCount % 4 = 0
  divCount : s.timer.divCount < 256
  timaCount : s.timer.timaCount < 1024
  bankLo : s.mapper.bankLo ≠ 0
  power : (s.cpu.halted && s.cpu.stopped) = false

/-- The RAM contents a load may give a cartridge with `ramBanks` banks: each store canonical, on its own locations. -/
structure Rams.Fits (r : Rams) (ramBanks : Nat) : Prop where
  vram : r.vram.within 0x8000 0xA000 = true
  cartRam : r.cartRam.within 0 (ramBanks * 0x2000) = true
  wram : r.wram.within 0xC000 0xE000 = true
  oam : r.oam.within 0xFE00 0xFEA0 = true
  hram : r.hram.within 0xFF80 0xFFFF = true

/-! ### Runs -/

/-- One thing that happens to the machine: a step, or a host operation between steps (70_reset_and_hazards.md R510). -/
inductive Event where
  | step
  | input (key : Key) (pressed : Bool)
  | writeMemory (addr value : Nat)
  | reset
  deriving DecidableEq, Repr

/-- `s.Leads e t`: event `e` takes `s` to `t`. A step that faults or does not exist leads nowhere (60_exceptions.md R421). -/
def State.Leads (s : State) (e : Event) (t : State) : Prop :=
  match e with
  | .step => Sys2Proof.Machine.step s = .next t
  | .input key pressed => t = s.input key pressed
  | .writeMemory addr value => t = s.writeMemory addr value
  | .reset => t = s.hostReset

/-- The states some sequence of events reaches from `s`. -/
inductive Reaches (s : State) : State → Prop where
  | here : Reaches s s
  | after {t u : State} (e : Event) (before : Reaches s t) (event : t.Leads e u) : Reaches s u

/-- A safe run: `k` steps from `s` without a fault (60_exceptions.md R421: a faulted run is never a normal end). -/
def SafeRun (k : Nat) (s : State) : Prop := ∃ t, Host.Core.run Sys2Proof.core k s = .next t

/-! ### The registers an instruction leaves -/

/-- The value of an 8-bit register (10_state.md R21). -/
def Cpu.get (v : Cpu) : Reg8 → Byte
  | .a => v.a
  | .b => v.b
  | .c => v.c
  | .d => v.d
  | .e => v.e
  | .h => v.h
  | .l => v.l

/-- `v` with register `r` replaced, every other register and bit kept. -/
def Cpu.put (v : Cpu) (r : Reg8) (x : Byte) : Cpu :=
  match r with
  | .a => { v with a := x }
  | .b => { v with b := x }
  | .c => { v with c := x }
  | .d => { v with d := x }
  | .e => { v with e := x }
  | .h => { v with h := x }
  | .l => { v with l := x }

/-- The high byte of a 16-bit value, by division (00_scope.md R5). -/
def highHalf (w : Word) : Byte := BitVec.ofNat 8 (w.toNat / 256)

/-- The low byte of a 16-bit value, by remainder (00_scope.md R5). -/
def lowHalf (w : Word) : Byte := BitVec.ofNat 8 (w.toNat % 256)

/-- A 16-bit value from its halves (10_state.md R22). -/
def fromHalves (hi lo : Byte) : Word := BitVec.ofNat 16 (256 * hi.toNat + lo.toNat)

/-- The value of a register pair, SP included (10_state.md R22; 30_encoding.md R124). -/
def Cpu.pairValue (v : Cpu) : Pair → Word
  | .bc => fromHalves v.b v.c
  | .de => fromHalves v.d v.e
  | .hl => fromHalves v.h v.l
  | .sp => v.sp

/-- `v` with a register pair replaced (00_scope.md R6). -/
def Cpu.putPair (v : Cpu) (p : Pair) (w : Word) : Cpu :=
  match p with
  | .bc => { v with b := highHalf w, c := lowHalf w }
  | .de => { v with d := highHalf w, e := lowHalf w }
  | .hl => { v with h := highHalf w, l := lowHalf w }
  | .sp => { v with sp := w }

/-- The value `PUSH` stores for a stack pair (41_load16.md R204). -/
def Cpu.stackValue (v : Cpu) : StackPair → Word
  | .bc => v.pairValue .bc
  | .de => v.pairValue .de
  | .hl => v.pairValue .hl
  | .af => fromHalves v.a v.f

/-- The address in HL. -/
def State.addrHl (s : State) : Word := s.cpu.pairValue .hl

/-- The byte at (HL). -/
def State.atHl (s : State) : Byte := s.memRead s.addrHl

/-! ### Flags and offsets as the rules write them -/

/-- F from its four flags: bit weights 128, 64, 32, 16 (10_state.md R25). -/
def flagByte (z n h c : Bool) : Byte := BitVec.ofNat 8 (128 * z.toNat + 64 * n.toNat + 32 * h.toNat + 16 * c.toNat)

/-- Flag Z of F, by weight. -/
def zOf (f : Byte) : Bool := decide (f.toNat / 128 % 2 = 1)
/-- Flag N of F, by weight. -/
def nOf (f : Byte) : Bool := decide (f.toNat / 64 % 2 = 1)
/-- Flag H of F, by weight. -/
def hOf (f : Byte) : Bool := decide (f.toNat / 32 % 2 = 1)
/-- Flag C of F, by weight. -/
def cOf (f : Byte) : Bool := decide (f.toNat / 16 % 2 = 1)

/-- Whether a condition holds for F (00_scope.md R8; 30_encoding.md R126). -/
def holds (f : Byte) : Cond → Bool
  | .nz => !zOf f
  | .z => zOf f
  | .nc => !cOf f
  | .c => cOf f

/-- `base + e` modulo 65536, `e` a signed byte (00_scope.md R8). -/
def offsetBy (base : Word) (e : Byte) : Word := BitVec.ofInt 16 ((base.toNat : Int) + e.toInt)

/-! ### The shapes of a completed instruction -/

/-- Everything outside the CPU, the cycle count apart. -/
structure SameRest (s t : State) : Prop where
  irq : t.irq = s.irq
  timer : t.timer = s.timer
  lcd : t.lcd = s.lcd
  joypad : t.joypad = s.joypad
  link : t.link = s.link
  apu : t.apu = s.apu
  mapper : t.mapper = s.mapper
  cart : t.cart = s.cart
  ram : t.ram = s.ram
  scanlines : t.out.scanlines = s.out.scanlines
  audio : t.out.audio = s.out.audio

/-- In `s`, whose pc is already npc (60_exceptions.md R401 step 3), instruction `i` completes: it is encoded as `bytes`, it
answers a next state in `n` cycles, the CPU is then as `v` says, and nothing else changes: no byte of memory, no device. -/
def Completes (i : Instr) (bytes : List Byte) (s : State) (n : Nat) (v : Cpu) : Prop :=
  encode i = bytes ∧ i.length = bytes.length ∧
    ∃ t, exec i s = .next t ∧ t.cpu = v ∧ t.out.cycles = n ∧ SameRest s t ∧ ∀ a, t.memRead a = s.memRead a

/-- The memory writes of a rule, in order. -/
def State.storeAll (s : State) : List (Word × Byte) → State
  | [] => s
  | (a, b) :: rest => (s.memWrite a b).storeAll rest

/-- A write to address `a` can change what a read of address `b` returns: the same location (work RAM also through its echo,
20_memory.md R87); the switchable windows after a mapper write (R95); OAM after a DMA write (R91). -/
def touches (a b : Word) : Bool :=
  if a.toNat < 0x8000 then
    decide (0x4000 ≤ b.toNat ∧ b.toNat < 0x8000) || decide (0xA000 ≤ b.toNat ∧ b.toNat < 0xC000)
  else if 0xC000 ≤ a.toNat ∧ a.toNat < 0xFE00 then
    decide (0xC000 ≤ b.toNat ∧ b.toNat < 0xFE00 ∧ a.toNat % 0x2000 = b.toNat % 0x2000)
  else if a.toNat = 0xFF46 then decide (b.toNat = 0xFF46) || decide (0xFE00 ≤ b.toNat ∧ b.toNat < 0xFEA0)
  else decide (a = b)

/-- In `s`, whose pc is already npc, instruction `i` completes with stores: as `Completes`, but memory and devices are as the
writes `stores` leave them, in order, and every address that none of these writes touches reads as before. -/
def CompletesStoring (i : Instr) (bytes : List Byte) (s : State) (n : Nat) (v : Cpu) (stores : List (Word × Byte)) :
    Prop :=
  encode i = bytes ∧ i.length = bytes.length ∧
    ∃ t, exec i s = .next t ∧ t.cpu = v ∧ t.out.cycles = n ∧ SameRest (s.storeAll stores) t ∧
      ∀ b, (∀ w ∈ stores, touches w.1 b = false) → t.memRead b = s.memRead b

/-! ### The timer's loop as the rule writes it -/

/-- The `DIV` loop of 60_exceptions.md R431, one subtraction of 256 a turn, at most `fuel` turns. -/
def divLoop : Nat → Nat → Byte → Nat × Byte
  | 0, count, div => (count, div)
  | fuel + 1, count, div => if 256 ≤ count then divLoop fuel (count - 256) (div + 1) else (count, div)

/-- `P`, the period that TAC[1:0] selects (60_exceptions.md R431). -/
def periodOf (tac : Byte) : Nat := [1024, 16, 64, 256].getD (tac.toNat % 4) 0

/-- The `TIMA` loop of 60_exceptions.md R431, at most `fuel` turns: count, TIMA, and whether it overflowed. -/
def timaLoop (period : Nat) (tma : Byte) : Nat → Nat → Byte → Bool → Nat × Byte × Bool
  | 0, count, tima, wrapped => (count, tima, wrapped)
  | fuel + 1, count, tima, wrapped =>
    if period ≤ count then
      if tima = 0xFF then timaLoop period tma fuel (count - period) tma true
      else timaLoop period tma fuel (count - period) (tima + 1) wrapped
    else (count, tima, wrapped)

/-! ### The numbers of the operand fields (30_encoding.md R123..R126) -/

/-- 30_encoding.md R123. -/
def regNumber : Reg8 → Nat
  | .b => 0
  | .c => 1
  | .d => 2
  | .e => 3
  | .h => 4
  | .l => 5
  | .a => 7

/-- 30_encoding.md R124. -/
def pairNumber : Pair → Nat
  | .bc => 0
  | .de => 1
  | .hl => 2
  | .sp => 3

/-- 30_encoding.md R125. -/
def stackPairNumber : StackPair → Nat
  | .bc => 0
  | .de => 1
  | .hl => 2
  | .af => 3

/-- 30_encoding.md R126. -/
def condNumber : Cond → Nat
  | .nz => 0
  | .z => 1
  | .nc => 2
  | .c => 3

/-- An opcode byte from its number. -/
def op (n : Nat) : Byte := BitVec.ofNat 8 n

/-! ### The results of the arithmetic rules -/

/-- `A + b + c` in A with the flags of ADD and ADC (42_alu8.md R230..R235). -/
def Cpu.added (v : Cpu) (b : Byte) (c : Bool) : Cpu :=
  let sum := v.a.toNat + b.toNat + c.toNat
  { v with
    a := BitVec.ofNat 8 sum
    f := flagByte (decide (sum % 256 = 0)) false (decide (v.a.toNat % 16 + b.toNat % 16 + c.toNat > 0xF)) (decide (sum > 0xFF)) }

/-- The flags of `A - b - c` (42_alu8.md R236..R241, R251..R253). -/
def Cpu.subFlags (v : Cpu) (b : Byte) (c : Bool) : Byte :=
  flagByte (decide (((v.a.toNat : Int) - b.toNat - c.toNat) % 256 = 0)) true
    (decide (v.a.toNat % 16 < b.toNat % 16 + c.toNat)) (decide (v.a.toNat < b.toNat + c.toNat))

/-- `A - b - c` in A with the flags of SUB and SBC (42_alu8.md R236..R241). -/
def Cpu.subtracted (v : Cpu) (b : Byte) (c : Bool) : Cpu :=
  { v with a := BitVec.ofInt 8 ((v.a.toNat : Int) - b.toNat - c.toNat), f := v.subFlags b c }

/-- A logic result in A; `h` is the constant the rule gives H (42_alu8.md R242..R250). -/
def Cpu.logical (v : Cpu) (r : Byte) (h : Bool) : Cpu := { v with a := r, f := flagByte (decide (r.toNat = 0)) false h false }

/-- The flags of an increment of `x`, C kept (42_alu8.md R254, R255). -/
def Cpu.incFlags (v : Cpu) (x : Byte) : Byte :=
  flagByte (decide ((x.toNat + 1) % 256 = 0)) false (decide (x.toNat % 16 = 15)) (cOf v.f)

/-- The flags of a decrement of `x`, C kept (42_alu8.md R256, R257). -/
def Cpu.decFlags (v : Cpu) (x : Byte) : Byte :=
  flagByte (decide ((x.toNat + 255) % 256 = 0)) true (decide (x.toNat % 16 = 0)) (cOf v.f)

/-- A after DAA, as a number (42_alu8.md R258). -/
def daaValue (a : Nat) (n h c : Bool) : Nat :=
  let low := if h || (!n && decide (a % 16 > 9)) then 0x06 else 0
  let high := if c || (!n && decide (a > 0x99)) then 0x60 else 0
  if n then (a + 256 - (low + high)) % 256 else (a + (low + high)) % 256

/-- C after DAA (42_alu8.md R258). -/
def daaCarry (a : Nat) (n c : Bool) : Bool := c || (!n && decide (a > 0x99))

/-- F after `SP + e8` (43_alu16.md R283; 41_load16.md R203): carries of the unsigned low bytes. -/
def spOffsetFlags (sp : Word) (e : Byte) : Byte :=
  flagByte false false (decide (sp.toNat % 16 + e.toNat % 16 > 0xF)) (decide (sp.toNat % 256 + e.toNat > 0xFF))

/-- The eight operations of the second-byte block `00 yyy zzz` (30_encoding.md R133; 44_rotate_shift_bit.md R304..R319). -/
inductive Shift where
  | rlc | rrc | rl | rr | sla | sra | swap | srl
  deriving DecidableEq, Repr

/-- The field `yyy` of an operation (30_encoding.md R133). -/
def Shift.number : Shift → Nat
  | .rlc => 0
  | .rrc => 1
  | .rl => 2
  | .rr => 3
  | .sla => 4
  | .sra => 5
  | .swap => 6
  | .srl => 7

/-- The instruction of an operation on a register. -/
def Shift.onReg : Shift → Reg8 → Instr
  | .rlc, r => .rlcR r
  | .rrc, r => .rrcR r
  | .rl, r => .rlR r
  | .rr, r => .rrR r
  | .sla, r => .slaR r
  | .sra, r => .sraR r
  | .swap, r => .swapR r
  | .srl, r => .srlR r

/-- The instruction of an operation on the byte at (HL). -/
def Shift.onHl : Shift → Instr
  | .rlc => .rlcHl
  | .rrc => .rrcHl
  | .rl => .rlHl
  | .rr => .rrHl
  | .sla => .slaHl
  | .sra => .sraHl
  | .swap => .swapHl
  | .srl => .srlHl

/-- The result of an operation on `x` with carry `c`, as a number (44_rotate_shift_bit.md R304..R319). -/
def Shift.value (x : Nat) (c : Bool) : Shift → Nat
  | .rlc => (2 * x + x / 128) % 256
  | .rrc => x / 2 + 128 * (x % 2)
  | .rl => (2 * x + c.toNat) % 256
  | .rr => x / 2 + 128 * c.toNat
  | .sla => 2 * x % 256
  | .sra => x / 2 + 128 * (x / 128)
  | .swap => 16 * (x % 16) + x / 16
  | .srl => x / 2

/-- The carry out of an operation on `x` (44_rotate_shift_bit.md R304..R319). -/
def Shift.carry (x : Nat) : Shift → Bool
  | .rlc => decide (x / 128 = 1)
  | .rrc => decide (x % 2 = 1)
  | .rl => decide (x / 128 = 1)
  | .rr => decide (x % 2 = 1)
  | .sla => decide (x / 128 = 1)
  | .sra => decide (x % 2 = 1)
  | .swap => false
  | .srl => decide (x % 2 = 1)

/-- The flags of an operation (44_rotate_shift_bit.md R304..R319). -/
def Shift.flags (k : Shift) (x : Nat) (c : Bool) : Byte :=
  flagByte (decide (k.value x c = 0)) false false (k.carry x)

/-- Bit `n` of a number (00_scope.md R5). -/
def bitAt (x n : Nat) : Nat := x / 2 ^ n % 2

/-- `x` with bit `n` cleared (44_rotate_shift_bit.md R322, R323). -/
def withoutBit (x n : Nat) : Nat := x - bitAt x n * 2 ^ n

/-- `x` with bit `n` set (44_rotate_shift_bit.md R324, R325). -/
def withBit (x n : Nat) : Nat := withoutBit x n + 2 ^ n

/-- Instruction `i` tests condition `k`: the conditional control transfers and no other (30_encoding.md R126). -/
def testsCondition (i : Instr) (k : Cond) : Prop :=
  i = .retCc k ∨ (∃ w, i = .jpCcA16 k w) ∨ (∃ e, i = .jrCcE8 k e) ∨ ∃ w, i = .callCcA16 k w

/-! ### The flag table (10_state.md R26) -/

/-- An entry of the table: `-`, `0`, `1`, `not C`, or a letter. -/
inductive FlagEffect where
  | kept | zero | one | inverted | computed
  deriving DecidableEq, Repr

/-- What an entry says of a flag before and after. -/
def FlagEffect.agrees (e : FlagEffect) (before after : Bool) : Prop :=
  match e with
  | .kept => after = before
  | .zero => after = false
  | .one => after = true
  | .inverted => after = !before
  | .computed => True

/-- A row of the table: Z, N, H, C. -/
structure FlagRow where
  z : FlagEffect
  n : FlagEffect
  h : FlagEffect
  c : FlagEffect
  deriving DecidableEq, Repr

/-- The row of an instruction (10_state.md R26). -/
def flagRow : Instr → FlagRow
  | .addAR _ | .addAHl | .addAD8 _ | .adcAR _ | .adcAHl | .adcAD8 _ => ⟨.computed, .zero, .computed, .computed⟩
  | .subAR _ | .subAHl | .subAD8 _ | .sbcAR _ | .sbcAHl | .sbcAD8 _ => ⟨.computed, .one, .computed, .computed⟩
  | .cpAR _ | .cpAHl | .cpAD8 _ => ⟨.computed, .one, .computed, .computed⟩
  | .andAR _ | .andAHl | .andAD8 _ => ⟨.computed, .zero, .one, .zero⟩
  | .xorAR _ | .xorAHl | .xorAD8 _ | .orAR _ | .orAHl | .orAD8 _ => ⟨.computed, .zero, .zero, .zero⟩
  | .incR _ | .incHl => ⟨.computed, .zero, .computed, .kept⟩
  | .decR _ | .decHl => ⟨.computed, .one, .computed, .kept⟩
  | .addHlRr _ => ⟨.kept, .zero, .computed, .computed⟩
  | .addSpE8 _ | .ldHlSpE8 _ => ⟨.zero, .zero, .computed, .computed⟩
  | .rlca | .rrca | .rla | .rra => ⟨.zero, .zero, .zero, .computed⟩
  | .rlcR _ | .rlcHl | .rrcR _ | .rrcHl | .rlR _ | .rlHl | .rrR _ | .rrHl => ⟨.computed, .zero, .zero, .computed⟩
  | .slaR _ | .slaHl | .sraR _ | .sraHl | .srlR _ | .srlHl => ⟨.computed, .zero, .zero, .computed⟩
  | .swapR _ | .swapHl => ⟨.computed, .zero, .zero, .zero⟩
  | .bitR .. | .bitHl _ => ⟨.computed, .zero, .one, .kept⟩
  | .daa => ⟨.computed, .kept, .zero, .computed⟩
  | .cpl => ⟨.kept, .one, .one, .kept⟩
  | .scf => ⟨.kept, .zero, .zero, .one⟩
  | .ccf => ⟨.kept, .zero, .zero, .inverted⟩
  | .popAf => ⟨.computed, .computed, .computed, .computed⟩
  | .ldRR .. | .ldRHl .. | .ldHlR .. | .ldRD8 .. | .ldHlD8 .. | .ldABc | .ldADe | .ldBcA | .ldDeA | .ldHlIncA
  | .ldAHlInc | .ldHlDecA | .ldAHlDec | .ldhA8A .. | .ldhAA8 .. | .ldCA | .ldAC | .ldA16A .. | .ldAA16 ..
  | .ldRrD16 .. | .ldA16Sp .. | .ldSpHl | .pushRr .. | .popRr .. | .incRr .. | .decRr .. | .resR .. | .resHl ..
  | .setR .. | .setHl .. | .jpA16 .. | .jpCcA16 .. | .jpHl | .jrE8 .. | .jrCcE8 .. | .callA16 ..
  | .callCcA16 .. | .ret | .retCc .. | .reti | .rstT .. | .nop | .halt | .stop .. | .di | .ei | .illegalD3
  | .illegalDB | .illegalDD | .illegalE3 | .illegalE4 | .illegalEB | .illegalEC | .illegalED | .illegalF4
  | .illegalFC | .illegalFD => ⟨.kept, .kept, .kept, .kept⟩

/-- The first bytes that are no instruction (30_encoding.md R134). -/
def illegalBytes : List Byte := [0xD3, 0xDB, 0xDD, 0xE3, 0xE4, 0xEB, 0xEC, 0xED, 0xF4, 0xFC, 0xFD]

/-- A machine that fetches in its next step: neither halted, stopped nor faulted (60_exceptions.md R472). -/
structure State.Running (s : State) : Prop where
  halted : s.cpu.halted = false
  stopped : s.cpu.stopped = false
  faulted : s.cpu.faulted = false

/-- The interrupts both enabled and requested (60_exceptions.md R405). -/
def State.pendingNow (s : State) : Byte := s.irq.ie &&& s.irq.iflag &&& 0x1F

end Sys2Proof.Machine
end

