-- ==== Sys2Proof/Certificates/Slice0/Obligations.lean ====
section
/-! DEFINITION. The statements for the provers, each named for what it states; OBLIGATIONS.json lists them. An instruction
runs on a state whose pc is already npc (60_exceptions.md R401 step 3): `s.cpu.pc` there is the address after it. -/

open Sys2Proof Sys2Proof.Machine

/-! ### Reset -/

/-- 10_state.md R38: the CPU after a load, whatever the cartridge and the RAM contents, and after `reset()` from any state. -/
def Obligations.ResetGivesCpuRegisters : Prop :=
  ∀ (s : State) (cart : Cartridge) (ram : Rams), ∀ t ∈ [State.powerOn cart ram, s.hostReset],
    t.cpu.pairValue .bc = 0x0013 ∧ t.cpu.pairValue .de = 0x00D8 ∧ t.cpu.pairValue .hl = 0x014D ∧
    t.cpu.a = 0x01 ∧ t.cpu.f = flagByte true false true true ∧ t.cpu.sp = 0xFFFE ∧ t.cpu.pc = 0x0100 ∧
    t.cpu.ime = false ∧ t.cpu.imePending = false ∧ t.cpu.halted = false ∧ t.cpu.stopped = false ∧ t.cpu.faulted = false ∧
    t.irq.ie = 0 ∧ t.irq.iflag = 0

/-- 70_reset_and_hazards.md R502, R503, R505: what the CPU reads from every memory-mapped register after a load and after
`reset()`, the hidden counters, and the mapper registers; R501, R504: `reset()` keeps the cartridge and every RAM. -/
def Obligations.ResetGivesDeviceRegisters : Prop :=
  ∀ (s : State) (cart : Cartridge) (ram : Rams), ∀ t ∈ [State.powerOn cart ram, s.hostReset],
    (∀ p ∈ ([(0xFF00, 0xFF), (0xFF01, 0x00), (0xFF02, 0x00), (0xFF04, 0x00), (0xFF05, 0x00), (0xFF06, 0x00),
          (0xFF07, 0x00), (0xFF0F, 0x00), (0xFF10, 0x80), (0xFF11, 0xBF), (0xFF12, 0xF3), (0xFF13, 0x00)] ++
        [(0xFF14, 0xBF), (0xFF16, 0x3F), (0xFF17, 0x00), (0xFF18, 0x00), (0xFF19, 0xBF), (0xFF1A, 0x7F),
          (0xFF1B, 0xFF), (0xFF1C, 0x9F), (0xFF1D, 0x00), (0xFF1E, 0xBF), (0xFF20, 0xFF), (0xFF21, 0x00)] ++
        [(0xFF22, 0x00), (0xFF23, 0xBF), (0xFF24, 0x77), (0xFF25, 0xF3), (0xFF26, 0xF1), (0xFF40, 0x91),
          (0xFF41, 0x06), (0xFF42, 0x00), (0xFF43, 0x00), (0xFF44, 0x00), (0xFF45, 0x00), (0xFF46, 0x00)] ++
        [(0xFF47, 0xFC), (0xFF48, 0xFF), (0xFF49, 0xFF), (0xFF4A, 0x00), (0xFF4B, 0x00), (0xFFFF, 0x00)] : List (Word × Byte)),
      t.memRead p.1 = p.2) ∧
    (∀ k < 16, t.memRead (BitVec.ofNat 16 (0xFF30 + k)) = 0x00) ∧
    t.timer.divCount = 0 ∧ t.timer.timaCount = 0 ∧ t.lcd.lineCount = 0 ∧ t.joypad.keys = 0 ∧
    t.apu.internal = Config.apuReset ∧
    t.mapper.ramEnable = false ∧ t.mapper.bankLo = 1 ∧ t.mapper.bankHi = 0 ∧ t.mapper.bankMode = false ∧
    s.hostReset.cart = s.cart ∧ s.hostReset.ram = s.ram

/-- The invariant holds in the machine a load leaves, for every cartridge image and every RAM contents in canonical form. -/
def Obligations.LoadedMachineMeetsInvariant : Prop :=
  ∀ (cart : Cartridge) (ram : Rams), cart.rom.within 0 cart.romLength = true → ram.Fits cart.ramBanks →
    (State.powerOn cart ram).Inv

/-- 70_reset_and_hazards.md R516; 20_memory.md R96, R97, R100, R101: which images load, what configuration they give, and
that a failed load leaves a running machine as it was. -/
def Obligations.LoadReadsHeader : Prop :=
  ∀ (bytes : List Byte) (ram : Rams) (current : Option State),
    let kind := (bytes.getD 0x147 0).toNat
    let ramCode := (bytes.getD 0x149 0).toNat
    (bytes.length < 0x150 → loadRom bytes ram = .error .truncatedHeader) ∧
    (0x150 ≤ bytes.length → 4 ≤ kind → Config.mapperSupported (bytes.getD 0x147 0) = true ∨
      loadRom bytes ram = .error (.unsupportedMapper (bytes.getD 0x147 0))) ∧
    (∀ e, loadRom bytes ram = .error e → reload bytes ram current = current) ∧
    (0x150 ≤ bytes.length → kind ≤ 3 → ramCode ≤ 3 →
      ∃ s, loadRom bytes ram = .ok s ∧ reload bytes ram current = some s ∧ s = State.powerOn s.cart ram ∧
        s.cart.kind = (if kind = 0 then .romOnly else .mbc1) ∧
        s.cart.romBanks = 2 * 2 ^ (bytes.getD 0x148 0).toNat ∧
        s.cart.ramBanks = [0, 1, 1, 4].getD ramCode 0 ∧
        s.cart.romLength = bytes.length ∧
        ∀ k, s.cart.romByte k = if k < bytes.length then bytes.getD k 0 else 0xFF)

/-! ### Encoding -/

/-- 30_encoding.md R120..R136: decoding the encoding of a well-formed instruction gives it back, at every operand value, and
leaves the bytes that follow. -/
def Obligations.DecodeOfEncodeIsIdentity : Prop :=
  ∀ (i : Instr) (rest : List Byte), i.wf = true → decode (encode i ++ rest) = .ok (i, rest)

/-- 30_encoding.md R136: every byte sequence has exactly one meaning: the decoder is total, answers a well-formed
instruction, and that instruction's encoding is the bytes it was read from. -/
def Obligations.EncodeOfDecodeIsTheBytes : Prop :=
  ∀ b d1 d2 : Byte,
    (decodeBytes b d1 d2).wf = true ∧
    encode (decodeBytes b d1 d2) = [b, d1, d2].take (decodeBytes b d1 d2).size ∧
    1 ≤ (decodeBytes b d1 d2).size ∧ (decodeBytes b d1 d2).size ≤ 3

/-- 30_encoding.md R130..R134: a few words written out from the encodings of the spec. -/
def Obligations.SpecWordsDecode : Prop :=
  decodeBytes 0b01000001 0 0 = .ldRR .b .c ∧ decodeBytes 0b01110110 0 0 = .halt ∧
  decodeBytes 0b00111110 0x5A 0 = .ldRD8 .a 0x5A ∧ decodeBytes 0b00100001 0x34 0x12 = .ldRrD16 .hl 0x1234 ∧
  decodeBytes 0b11110101 0 0 = .pushRr .af ∧ decodeBytes 0b11110001 0 0 = .popAf ∧
  decodeBytes 0b10011110 0 0 = .sbcAHl ∧ decodeBytes 0b11101110 0x0F 0 = .xorAD8 0x0F ∧
  decodeBytes 0b00111001 0 0 = .addHlRr .sp ∧ decodeBytes 0b11001011 0b00111110 0 = .srlHl ∧
  decodeBytes 0b11001011 0b01111100 0 = .bitR 7 .h ∧ decodeBytes 0b11011010 0xCD 0xAB = .jpCcA16 .c 0xABCD ∧
  decodeBytes 0b11111111 0 0 = .rstT 7 ∧ decodeBytes 0b11010011 0 0 = .illegalD3

/-! ### Results, frames and completion, family by family -/

/-- 40_load8.md R160, R161, R163: loads of a register (`ldRR`, `ldRHl`, `ldRD8`). -/
def Obligations.LoadsIntoRegister : Prop :=
  ∀ s : State,
    (∀ dst src, Completes (.ldRR dst src) [op (0x40 + 8 * regNumber dst + regNumber src)] s 4
      (s.cpu.put dst (s.cpu.get src))) ∧
    (∀ dst, Completes (.ldRHl dst) [op (0x46 + 8 * regNumber dst)] s 8 (s.cpu.put dst s.atHl)) ∧
    (∀ dst n, Completes (.ldRD8 dst n) [op (0x06 + 8 * regNumber dst), n] s 8 (s.cpu.put dst n))

/-- 40_load8.md R165, R166, R170, R172, R174, R176, R178: loads of A from memory (`ldABc`, `ldADe`, `ldAHlInc`, `ldAHlDec`,
`ldhAA8`, `ldAC`, `ldAA16`), with HL + 1 or HL - 1 where the mnemonic has it. -/
def Obligations.LoadsAccumulatorFromMemory : Prop :=
  ∀ s : State,
    Completes .ldABc [0x0A] s 8 (s.cpu.put .a (s.memRead (s.cpu.pairValue .bc))) ∧
    Completes .ldADe [0x1A] s 8 (s.cpu.put .a (s.memRead (s.cpu.pairValue .de))) ∧
    Completes .ldAHlInc [0x2A] s 8 ((s.cpu.put .a s.atHl).putPair .hl (BitVec.ofNat 16 (s.addrHl.toNat + 1))) ∧
    Completes .ldAHlDec [0x3A] s 8 ((s.cpu.put .a s.atHl).putPair .hl (BitVec.ofNat 16 (s.addrHl.toNat + 0xFFFF))) ∧
    (∀ n, Completes (.ldhAA8 n) [0xF0, n] s 12 (s.cpu.put .a (s.memRead (BitVec.ofNat 16 (0xFF00 + n.toNat))))) ∧
    Completes .ldAC [0xF2] s 8 (s.cpu.put .a (s.memRead (BitVec.ofNat 16 (0xFF00 + s.cpu.c.toNat)))) ∧
    (∀ w, Completes (.ldAA16 w) [0xFA, lowHalf w, highHalf w] s 16 (s.cpu.put .a (s.memRead w)))

/-- 40_load8.md R162, R164, R167, R168, R169, R171, R173, R175, R177: stores of one byte (`ldHlR`, `ldHlD8`, `ldBcA`, `ldDeA`,
`ldHlIncA`, `ldHlDecA`, `ldhA8A`, `ldCA`, `ldA16A`). -/
def Obligations.StoresOneByte : Prop :=
  ∀ s : State,
    (∀ r, CompletesStoring (.ldHlR r) [op (0x70 + regNumber r)] s 8 s.cpu [(s.addrHl, s.cpu.get r)]) ∧
    (∀ n, CompletesStoring (.ldHlD8 n) [0x36, n] s 12 s.cpu [(s.addrHl, n)]) ∧
    CompletesStoring .ldBcA [0x02] s 8 s.cpu [(s.cpu.pairValue .bc, s.cpu.a)] ∧
    CompletesStoring .ldDeA [0x12] s 8 s.cpu [(s.cpu.pairValue .de, s.cpu.a)] ∧
    CompletesStoring .ldHlIncA [0x22] s 8 (s.cpu.putPair .hl (BitVec.ofNat 16 (s.addrHl.toNat + 1)))
      [(s.addrHl, s.cpu.a)] ∧
    CompletesStoring .ldHlDecA [0x32] s 8 (s.cpu.putPair .hl (BitVec.ofNat 16 (s.addrHl.toNat + 0xFFFF)))
      [(s.addrHl, s.cpu.a)] ∧
    (∀ n, CompletesStoring (.ldhA8A n) [0xE0, n] s 12 s.cpu [(BitVec.ofNat 16 (0xFF00 + n.toNat), s.cpu.a)]) ∧
    CompletesStoring .ldCA [0xE2] s 8 s.cpu [(BitVec.ofNat 16 (0xFF00 + s.cpu.c.toNat), s.cpu.a)] ∧
    (∀ w, CompletesStoring (.ldA16A w) [0xEA, lowHalf w, highHalf w] s 16 s.cpu [(w, s.cpu.a)])

/-- 41_load16.md R200, R202, R203: loads of a pair (`ldRrD16`, `ldSpHl`, `ldHlSpE8`). -/
def Obligations.LoadsIntoPair : Prop :=
  ∀ s : State,
    (∀ p w, Completes (.ldRrD16 p w) [op (0x01 + 16 * pairNumber p), lowHalf w, highHalf w] s 12 (s.cpu.putPair p w)) ∧
    Completes .ldSpHl [0xF9] s 8 { s.cpu with sp := s.addrHl } ∧
    (∀ e, Completes (.ldHlSpE8 e) [0xF8, e] s 12
      { s.cpu.putPair .hl (offsetBy s.cpu.sp e) with f := spOffsetFlags s.cpu.sp e })

/-- 41_load16.md R201, R204: the two-byte stores (`ldA16Sp`, `pushRr`). -/
def Obligations.StoresTwoBytes : Prop :=
  ∀ s : State,
    (∀ w, CompletesStoring (.ldA16Sp w) [0x08, lowHalf w, highHalf w] s 20 s.cpu
      [(w, lowHalf s.cpu.sp), (BitVec.ofNat 16 (w.toNat + 1), highHalf s.cpu.sp)]) ∧
    (∀ p, CompletesStoring (.pushRr p) [op (0xC5 + 16 * stackPairNumber p)] s 16 { s.cpu with sp := s.cpu.sp - 2 }
      [(s.cpu.sp - 1, highHalf (s.cpu.stackValue p)), (s.cpu.sp - 2, lowHalf (s.cpu.stackValue p))])

/-- 41_load16.md R205, R206: `popRr` of BC, DE and HL, and `popAf`, which keeps the low nibble of F at 0. -/
def Obligations.PopsPair : Prop :=
  ∀ s : State,
    let lo := s.memRead s.cpu.sp
    let hi := s.memRead (BitVec.ofNat 16 (s.cpu.sp.toNat + 1))
    let sp := BitVec.ofNat 16 (s.cpu.sp.toNat + 2)
    Completes (.popRr .bc) [0xC1] s 12 { s.cpu with b := hi, c := lo, sp := sp } ∧
    Completes (.popRr .de) [0xD1] s 12 { s.cpu with d := hi, e := lo, sp := sp } ∧
    Completes (.popRr .hl) [0xE1] s 12 { s.cpu with h := hi, l := lo, sp := sp } ∧
    Completes .popAf [0xF1] s 12
      { s.cpu with a := hi, f := flagByte (zOf lo) (nOf lo) (hOf lo) (cOf lo), sp := sp }

/-- 42_alu8.md R230..R235: `addAR`, `addAHl`, `addAD8`, `adcAR`, `adcAHl`, `adcAD8`. -/
def Obligations.AddsToAccumulator : Prop :=
  ∀ s : State,
    (∀ r, Completes (.addAR r) [op (0x80 + regNumber r)] s 4 (s.cpu.added (s.cpu.get r) false)) ∧
    Completes .addAHl [0x86] s 8 (s.cpu.added s.atHl false) ∧
    (∀ n, Completes (.addAD8 n) [0xC6, n] s 8 (s.cpu.added n false)) ∧
    (∀ r, Completes (.adcAR r) [op (0x88 + regNumber r)] s 4 (s.cpu.added (s.cpu.get r) (cOf s.cpu.f))) ∧
    Completes .adcAHl [0x8E] s 8 (s.cpu.added s.atHl (cOf s.cpu.f)) ∧
    (∀ n, Completes (.adcAD8 n) [0xCE, n] s 8 (s.cpu.added n (cOf s.cpu.f)))

/-- 42_alu8.md R236..R241: `subAR`, `subAHl`, `subAD8`, `sbcAR`, `sbcAHl`, `sbcAD8`. -/
def Obligations.SubtractsFromAccumulator : Prop :=
  ∀ s : State,
    (∀ r, Completes (.subAR r) [op (0x90 + regNumber r)] s 4 (s.cpu.subtracted (s.cpu.get r) false)) ∧
    Completes .subAHl [0x96] s 8 (s.cpu.subtracted s.atHl false) ∧
    (∀ n, Completes (.subAD8 n) [0xD6, n] s 8 (s.cpu.subtracted n false)) ∧
    (∀ r, Completes (.sbcAR r) [op (0x98 + regNumber r)] s 4 (s.cpu.subtracted (s.cpu.get r) (cOf s.cpu.f))) ∧
    Completes .sbcAHl [0x9E] s 8 (s.cpu.subtracted s.atHl (cOf s.cpu.f)) ∧
    (∀ n, Completes (.sbcAD8 n) [0xDE, n] s 8 (s.cpu.subtracted n (cOf s.cpu.f)))

/-- 42_alu8.md R242..R250: `andAR`, `andAHl`, `andAD8`, `xorAR`, `xorAHl`, `xorAD8`, `orAR`, `orAHl`, `orAD8`. -/
def Obligations.LogicOnAccumulator : Prop :=
  ∀ s : State,
    (∀ r, Completes (.andAR r) [op (0xA0 + regNumber r)] s 4 (s.cpu.logical (s.cpu.a &&& s.cpu.get r) true)) ∧
    Completes .andAHl [0xA6] s 8 (s.cpu.logical (s.cpu.a &&& s.atHl) true) ∧
    (∀ n, Completes (.andAD8 n) [0xE6, n] s 8 (s.cpu.logical (s.cpu.a &&& n) true)) ∧
    (∀ r, Completes (.xorAR r) [op (0xA8 + regNumber r)] s 4 (s.cpu.logical (s.cpu.a ^^^ s.cpu.get r) false)) ∧
    Completes .xorAHl [0xAE] s 8 (s.cpu.logical (s.cpu.a ^^^ s.atHl) false) ∧
    (∀ n, Completes (.xorAD8 n) [0xEE, n] s 8 (s.cpu.logical (s.cpu.a ^^^ n) false)) ∧
    (∀ r, Completes (.orAR r) [op (0xB0 + regNumber r)] s 4 (s.cpu.logical (s.cpu.a ||| s.cpu.get r) false)) ∧
    Completes .orAHl [0xB6] s 8 (s.cpu.logical (s.cpu.a ||| s.atHl) false) ∧
    (∀ n, Completes (.orAD8 n) [0xF6, n] s 8 (s.cpu.logical (s.cpu.a ||| n) false))

/-- 42_alu8.md R251..R253: `cpAR`, `cpAHl`, `cpAD8` write the flags of a subtraction and nothing else. -/
def Obligations.CompareWritesOnlyFlags : Prop :=
  ∀ s : State,
    (∀ r, Completes (.cpAR r) [op (0xB8 + regNumber r)] s 4 { s.cpu with f := s.cpu.subFlags (s.cpu.get r) false }) ∧
    Completes .cpAHl [0xBE] s 8 { s.cpu with f := s.cpu.subFlags s.atHl false } ∧
    (∀ n, Completes (.cpAD8 n) [0xFE, n] s 8 { s.cpu with f := s.cpu.subFlags n false })

/-- 42_alu8.md R254..R257: `incR`, `incHl`, `decR`, `decHl`; the carry flag is kept. -/
def Obligations.IncrementsAndDecrementsByte : Prop :=
  ∀ s : State,
    (∀ r, Completes (.incR r) [op (0x04 + 8 * regNumber r)] s 4
      { s.cpu.put r (BitVec.ofNat 8 ((s.cpu.get r).toNat + 1)) with f := s.cpu.incFlags (s.cpu.get r) }) ∧
    CompletesStoring .incHl [0x34] s 12 { s.cpu with f := s.cpu.incFlags s.atHl }
      [(s.addrHl, BitVec.ofNat 8 (s.atHl.toNat + 1))] ∧
    (∀ r, Completes (.decR r) [op (0x05 + 8 * regNumber r)] s 4
      { s.cpu.put r (BitVec.ofNat 8 ((s.cpu.get r).toNat + 255)) with f := s.cpu.decFlags (s.cpu.get r) }) ∧
    CompletesStoring .decHl [0x35] s 12 { s.cpu with f := s.cpu.decFlags s.atHl }
      [(s.addrHl, BitVec.ofNat 8 (s.atHl.toNat + 255))]

/-- 42_alu8.md R258: `daa`. -/
def Obligations.DecimalAdjust : Prop :=
  ∀ s : State,
    let v := daaValue s.cpu.a.toNat (nOf s.cpu.f) (hOf s.cpu.f) (cOf s.cpu.f)
    Completes .daa [0x27] s 4
      { s.cpu with
        a := BitVec.ofNat 8 v
        f := flagByte (decide (v = 0)) (nOf s.cpu.f) false (daaCarry s.cpu.a.toNat (nOf s.cpu.f) (cOf s.cpu.f)) }

/-- What DAA is for (42_alu8.md R258): ADD of two packed-BCD bytes and then DAA leaves the packed-BCD sum modulo 100, with C
the decimal carry. -/
def Obligations.AddThenDecimalAdjustIsDecimalSum : Prop :=
  ∀ (s : State) (x y : Nat), x < 100 → y < 100 → s.cpu.a = BitVec.ofNat 8 (16 * (x / 10) + x % 10) →
    ∃ t u, exec (.addAD8 (BitVec.ofNat 8 (16 * (y / 10) + y % 10))) s = .next t ∧ exec .daa t = .next u ∧
      u.cpu.a = BitVec.ofNat 8 (16 * ((x + y) % 100 / 10) + (x + y) % 10) ∧
      cOf u.cpu.f = decide (100 ≤ x + y) ∧ zOf u.cpu.f = decide ((x + y) % 100 = 0)

/-- 42_alu8.md R259..R261: `cpl`, `scf`, `ccf`. -/
def Obligations.ComplementAndCarryFlags : Prop :=
  ∀ s : State,
    Completes .cpl [0x2F] s 4
      { s.cpu with a := BitVec.ofNat 8 (255 - s.cpu.a.toNat), f := flagByte (zOf s.cpu.f) true true (cOf s.cpu.f) } ∧
    Completes .scf [0x37] s 4 { s.cpu with f := flagByte (zOf s.cpu.f) false false true } ∧
    Completes .ccf [0x3F] s 4 { s.cpu with f := flagByte (zOf s.cpu.f) false false (!cOf s.cpu.f) }

/-- 43_alu16.md R280..R283: `addHlRr`, `incRr`, `decRr`, `addSpE8`. -/
def Obligations.WordArithmetic : Prop :=
  ∀ s : State,
    (∀ p,
      let x := s.addrHl.toNat
      let y := (s.cpu.pairValue p).toNat
      Completes (.addHlRr p) [op (0x09 + 16 * pairNumber p)] s 8
        { s.cpu.putPair .hl (BitVec.ofNat 16 (x + y)) with
          f := flagByte (zOf s.cpu.f) false (decide (x % 4096 + y % 4096 > 0xFFF)) (decide (x + y > 0xFFFF)) }) ∧
    (∀ p, Completes (.incRr p) [op (0x03 + 16 * pairNumber p)] s 8
      (s.cpu.putPair p (BitVec.ofNat 16 ((s.cpu.pairValue p).toNat + 1)))) ∧
    (∀ p, Completes (.decRr p) [op (0x0B + 16 * pairNumber p)] s 8
      (s.cpu.putPair p (BitVec.ofNat 16 ((s.cpu.pairValue p).toNat + 0xFFFF)))) ∧
    (∀ e, Completes (.addSpE8 e) [0xE8, e] s 16
      { s.cpu with sp := offsetBy s.cpu.sp e, f := spOffsetFlags s.cpu.sp e })

/-- 44_rotate_shift_bit.md R300..R303: `rlca`, `rrca`, `rla`, `rra`, which clear Z. -/
def Obligations.AccumulatorRotates : Prop :=
  ∀ s : State,
    let x := s.cpu.a.toNat
    let c := cOf s.cpu.f
    Completes .rlca [0x07] s 4
      { s.cpu with a := op (Shift.rlc.value x c), f := flagByte false false false (Shift.rlc.carry x) } ∧
    Completes .rrca [0x0F] s 4
      { s.cpu with a := op (Shift.rrc.value x c), f := flagByte false false false (Shift.rrc.carry x) } ∧
    Completes .rla [0x17] s 4
      { s.cpu with a := op (Shift.rl.value x c), f := flagByte false false false (Shift.rl.carry x) } ∧
    Completes .rra [0x1F] s 4
      { s.cpu with a := op (Shift.rr.value x c), f := flagByte false false false (Shift.rr.carry x) }

/-- 44_rotate_shift_bit.md R304, R306, R308, R310, R312, R314, R316, R318: `rlcR`, `rrcR`, `rlR`, `rrR`, `slaR`, `sraR`,
`swapR`, `srlR`. -/
def Obligations.ShiftsRegister : Prop :=
  ∀ (s : State) (k : Shift) (r : Reg8),
    let x := (s.cpu.get r).toNat
    let c := cOf s.cpu.f
    Completes (k.onReg r) [0xCB, op (8 * k.number + regNumber r)] s 8
      { s.cpu.put r (op (k.value x c)) with f := k.flags x c }

/-- 44_rotate_shift_bit.md R305, R307, R309, R311, R313, R315, R317, R319: `rlcHl`, `rrcHl`, `rlHl`, `rrHl`, `slaHl`, `sraHl`,
`swapHl`, `srlHl`. -/
def Obligations.ShiftsMemoryByte : Prop :=
  ∀ (s : State) (k : Shift),
    let x := s.atHl.toNat
    let c := cOf s.cpu.f
    CompletesStoring k.onHl [0xCB, op (8 * k.number + 6)] s 16 { s.cpu with f := k.flags x c }
      [(s.addrHl, op (k.value x c))]

/-- 44_rotate_shift_bit.md R320, R321: `bitR`, `bitHl`: Z is the complement of the tested bit. -/
def Obligations.TestsBit : Prop :=
  ∀ (s : State) (n : BitVec 3),
    (∀ r, Completes (.bitR n r) [0xCB, op (0x40 + 8 * n.toNat + regNumber r)] s 8
      { s.cpu with f := flagByte (decide (bitAt (s.cpu.get r).toNat n.toNat = 0)) false true (cOf s.cpu.f) }) ∧
    Completes (.bitHl n) [0xCB, op (0x46 + 8 * n.toNat)] s 12
      { s.cpu with f := flagByte (decide (bitAt s.atHl.toNat n.toNat = 0)) false true (cOf s.cpu.f) }

/-- 44_rotate_shift_bit.md R322..R325: `resR`, `resHl`, `setR`, `setHl`; no flag changes. -/
def Obligations.ClearsAndSetsBit : Prop :=
  ∀ (s : State) (n : BitVec 3),
    (∀ r, Completes (.resR n r) [0xCB, op (0x80 + 8 * n.toNat + regNumber r)] s 8
      (s.cpu.put r (op (withoutBit (s.cpu.get r).toNat n.toNat)))) ∧
    CompletesStoring (.resHl n) [0xCB, op (0x86 + 8 * n.toNat)] s 16 s.cpu
      [(s.addrHl, op (withoutBit s.atHl.toNat n.toNat))] ∧
    (∀ r, Completes (.setR n r) [0xCB, op (0xC0 + 8 * n.toNat + regNumber r)] s 8
      (s.cpu.put r (op (withBit (s.cpu.get r).toNat n.toNat)))) ∧
    CompletesStoring (.setHl n) [0xCB, op (0xC6 + 8 * n.toNat)] s 16 s.cpu
      [(s.addrHl, op (withBit s.atHl.toNat n.toNat))]

/-- 45_control.md R340..R344: `jpA16`, `jpCcA16`, `jpHl`, `jrE8`, `jrCcE8`; both outcomes of a condition. -/
def Obligations.Jumps : Prop :=
  ∀ s : State,
    (∀ w, Completes (.jpA16 w) [0xC3, lowHalf w, highHalf w] s 16 { s.cpu with pc := w }) ∧
    (∀ k w, Completes (.jpCcA16 k w) [op (0xC2 + 8 * condNumber k), lowHalf w, highHalf w] s
      (if holds s.cpu.f k then 16 else 12) { s.cpu with pc := if holds s.cpu.f k then w else s.cpu.pc }) ∧
    Completes .jpHl [0xE9] s 4 { s.cpu with pc := s.addrHl } ∧
    (∀ e, Completes (.jrE8 e) [0x18, e] s 12 { s.cpu with pc := offsetBy s.cpu.pc e }) ∧
    (∀ k e, Completes (.jrCcE8 k e) [op (0x20 + 8 * condNumber k), e] s (if holds s.cpu.f k then 12 else 8)
      { s.cpu with pc := if holds s.cpu.f k then offsetBy s.cpu.pc e else s.cpu.pc })

/-- 45_control.md R345, R346, R350: `callA16`, `callCcA16`, `rstT`. The pushed address is that of the next instruction, high
byte at SP - 1, low byte at SP - 2. -/
def Obligations.CallsPushReturnAddress : Prop :=
  ∀ s : State,
    let pushed := [(s.cpu.sp - 1, highHalf s.cpu.pc), (s.cpu.sp - 2, lowHalf s.cpu.pc)]
    (∀ w, CompletesStoring (.callA16 w) [0xCD, lowHalf w, highHalf w] s 24
      { s.cpu with sp := s.cpu.sp - 2, pc := w } pushed) ∧
    (∀ k w, CompletesStoring (.callCcA16 k w) [op (0xC4 + 8 * condNumber k), lowHalf w, highHalf w] s
      (if holds s.cpu.f k then 24 else 12)
      (if holds s.cpu.f k then { s.cpu with sp := s.cpu.sp - 2, pc := w } else s.cpu)
      (if holds s.cpu.f k then pushed else [])) ∧
    (∀ t, CompletesStoring (.rstT t) [op (0xC7 + 8 * t.toNat)] s 16
      { s.cpu with sp := s.cpu.sp - 2, pc := BitVec.ofNat 16 (8 * t.toNat) } pushed)

/-- 45_control.md R347, R348, R349; 60_exceptions.md R412: `ret`, `retCc`, `reti`. -/
def Obligations.ReturnsPopPc : Prop :=
  ∀ s : State,
    let target := fromHalves (s.memRead (BitVec.ofNat 16 (s.cpu.sp.toNat + 1))) (s.memRead s.cpu.sp)
    let sp := BitVec.ofNat 16 (s.cpu.sp.toNat + 2)
    Completes .ret [0xC9] s 16 { s.cpu with pc := target, sp := sp } ∧
    (∀ k, Completes (.retCc k) [op (0xC0 + 8 * condNumber k)] s (if holds s.cpu.f k then 20 else 8)
      (if holds s.cpu.f k then { s.cpu with pc := target, sp := sp } else s.cpu)) ∧
    Completes .reti [0xD9] s 16 { s.cpu with pc := target, sp := sp, ime := true }

/-- 46_misc.md R380..R384: `nop`, `halt`, `stop`, `di`, `ei`. -/
def Obligations.CpuControl : Prop :=
  ∀ s : State,
    Completes .nop [0x00] s 4 s.cpu ∧
    Completes .halt [0x76] s 4 { s.cpu with halted := true } ∧
    (∀ pad, Completes (.stop pad) [0x10, pad] s 4 { s.cpu with stopped := true }) ∧
    Completes .di [0xF3] s 4 { s.cpu with ime := false, imePending := false } ∧
    Completes .ei [0xFB] s 4 { s.cpu with imePending := true }

/-- 46_misc.md R385; 60_exceptions.md R420: each of the eleven illegal first bytes faults with its byte and its address, and
the fault carries a state that differs from the one before only in `faulted`. -/
def Obligations.IllegalBytesFault : Prop :=
  ∀ s : State,
    ∀ p ∈ ([(.illegalD3, 0xD3), (.illegalDB, 0xDB), (.illegalDD, 0xDD), (.illegalE3, 0xE3), (.illegalE4, 0xE4),
        (.illegalEB, 0xEB), (.illegalEC, 0xEC), (.illegalED, 0xED), (.illegalF4, 0xF4), (.illegalFC, 0xFC),
        (.illegalFD, 0xFD)] : List (Instr × Byte)),
      encode p.1 = [p.2] ∧ p.2 ∈ illegalBytes ∧
        exec p.1 s = .fault (.illegalOpcode p.2 s.cpu.pc { s with cpu := { s.cpu with faulted := true } })

/-- 10_state.md R26, the "Written" table: every well-formed instruction that completes leaves each flag as its row says: kept,
0, 1, inverted, or (no claim here) computed. -/
def Obligations.FlagTable : Prop :=
  ∀ (i : Instr) (s t : State), i.wf = true → exec i s = .next t →
    (flagRow i).z.agrees (zOf s.cpu.f) (zOf t.cpu.f) ∧ (flagRow i).n.agrees (nOf s.cpu.f) (nOf t.cpu.f) ∧
    (flagRow i).h.agrees (hOf s.cpu.f) (hOf t.cpu.f) ∧ (flagRow i).c.agrees (cOf s.cpu.f) (cOf t.cpu.f)

/-- 70_reset_and_hazards.md R530, R531: an instruction's cycle count depends on nothing but the instruction and, if it tests a
condition, whether that condition holds; it is a multiple of 4 from 4 to 24. -/
def Obligations.CyclesDependOnlyOnPath : Prop :=
  ∀ (i : Instr) (s s' t t' : State), (∀ k, testsCondition i k → holds s.cpu.f k = holds s'.cpu.f k) →
    exec i s = .next t → exec i s' = .next t' →
    t.out.cycles = t'.out.cycles ∧ t.out.cycles % 4 = 0 ∧ 4 ≤ t.out.cycles ∧ t.out.cycles ≤ 24

/-! ### The step -/

/-- 60_exceptions.md R401: a running machine whose bytes at pc are the encoding of a well-formed instruction takes the step
of that instruction: pc past it, its meaning, the delayed effect of EI, the devices clocked by its cycles in the order LCD,
timer, APU, the wake check, the dispatch check. -/
def Obligations.StepRunsTheDecodedInstruction : Prop :=
  ∀ (s : State) (i : Instr), s.Running → i.wf = true →
    (∀ k < i.size, s.memRead (s.cpu.pc + BitVec.ofNat 16 k) = (encode i).getD k 0) →
    step s =
      match exec i { s with cpu := { s.cpu with pc := s.cpu.pc + BitVec.ofNat 16 i.length }, out := StepOut.empty } with
      | .fault r => .fault r
      | .refused r => .refused r
      | .next t =>
        let u : State :=
          if s.cpu.imePending && t.cpu.imePending then { t with cpu := { t.cpu with ime := true, imePending := false } }
          else t
        let n := u.out.cycles
        let v := State.apuTick n (State.timerTick n (State.lcdClock n u))
        let w : State :=
          if v.cpu.halted = true ∧ v.cpu.stopped = false ∧ v.pendingNow ≠ 0 then
            { v with cpu := { v.cpu with halted := false } }
          else v
        .next w.dispatchCheck

/-- 60_exceptions.md R420, R414; 30_encoding.md R134; 20_memory.md R84: a running machine's step faults exactly when the byte at
pc is one of the eleven; the state the fault carries is the one before the step with `faulted` set. Otherwise the step
completes. That the fault carries a state, and that its `out` is cleared, is the model's form (log entries 4 and 6). -/
def Obligations.StepFaultsExactlyOnIllegalByte : Prop :=
  ∀ s : State, s.Running →
    (s.memRead s.cpu.pc ∈ illegalBytes →
      step s = .fault (.illegalOpcode (s.memRead s.cpu.pc) s.cpu.pc
        { s with cpu := { s.cpu with faulted := true }, out := StepOut.empty })) ∧
    (s.memRead s.cpu.pc ∉ illegalBytes → ∃ t, step s = .next t)

/-- 60_exceptions.md R404, R421, R472; 10_state.md R31: a stopped machine's step changes nothing and returns 0 cycles, however
often it is taken; a faulted machine has no step, and no key event, host memory write or restored snapshot ends that state:
`faulted` is cleared only by a reset, stated here, or a load. The refusal is log entry 5; that key events and restores act at
all on a faulted machine is log entry 18. -/
def Obligations.StoppedIdlesAndFaultedHasNoStep : Prop :=
  ∀ s : State,
    (s.cpu.faulted = true → step s = .refused .machineFaulted) ∧
    (s.cpu.faulted = false → s.cpu.stopped = true → ∀ k, ∃ t, Host.Core.run core (k + 1) s = .next t ∧
      t.cpu = s.cpu ∧ t.irq = s.irq ∧ t.timer = s.timer ∧ t.lcd = s.lcd ∧ t.joypad = s.joypad ∧ t.link = s.link ∧
      t.apu = s.apu ∧ t.mapper = s.mapper ∧ t.cart = s.cart ∧ t.ram = s.ram ∧ t.out.cycles = 0) ∧
    (∀ opcode addr t, step s = .fault (.illegalOpcode opcode addr t) → step t = .refused .machineFaulted) ∧
    (s.cpu.faulted = true → (∀ key pressed, (s.input key pressed).cpu.faulted = true) ∧
      (∀ addr value, (s.writeMemory addr value).cpu.faulted = true) ∧ ∀ d, (s.deserialize d).cpu.faulted = true) ∧
    s.hostReset.cpu.faulted = false

/-- 60_exceptions.md R401 step 4, R402, R403, R405: a step while halted, whatever IME and ime_pending are. It fetches nothing; a
pending EI takes effect; the devices are clocked by 4 cycles, which leaves the machine `d`. With no dispatch, only `halted`
then changes: it is cleared exactly if an enabled interrupt is pending. With IME set and one pending, the same step takes the
highest-priority one, and the pushed return address is pc, that of the instruction after the HALT. IDLE_CYCLES = 4 and
IRQ_DISPATCH_CYCLES = 0 are log entry 1. -/
def Obligations.HaltedStepIdlesAndWakes : Prop :=
  ∀ s : State, s.cpu.faulted = false → s.cpu.stopped = false → s.cpu.halted = true →
    let ime := s.cpu.ime || s.cpu.imePending
    let d := State.clockDevices 4
      { s with cpu := { s.cpu with ime := ime, imePending := false }, out := { StepOut.empty with cycles := 4 } }
    ∃ t, step s = .next t ∧ t.out.cycles = 4 ∧ t.cart = s.cart ∧
      (ime = false ∨ d.pendingNow = 0 →
        t.cpu = { s.cpu with ime := ime, imePending := false, halted := decide (d.pendingNow = 0) } ∧ SameRest d t ∧
        t.joypad = s.joypad ∧ t.link = s.link ∧ t.mapper = s.mapper ∧ t.ram = s.ram ∧
        ∀ a : Word, a.toNat < 0xFF00 → t.memRead a = s.memRead a) ∧
      ∀ k < 5, ime = true → d.pendingNow.toNat / 2 ^ k % 2 = 1 → d.pendingNow.toNat % 2 ^ k = 0 →
        let cleared : State := { d with irq := { d.irq with iflag := BitVec.ofNat 8 (d.irq.iflag.toNat - 2 ^ k) } }
        t.cpu =
          { s.cpu with
            pc := BitVec.ofNat 16 (0x0040 + 8 * k), sp := s.cpu.sp - 2
            ime := false, imePending := false, halted := false } ∧
        SameRest (cleared.storeAll [(s.cpu.sp - 1, highHalf s.cpu.pc), (s.cpu.sp - 2, lowHalf s.cpu.pc)]) t

/-- 70_reset_and_hazards.md R518: halted with nothing enabled in IE, the machine never leaves that state by itself: for any
number of steps it goes on, and CPU registers, pc, RAM and mapper state no longer change. -/
def Obligations.HaltedWithNothingEnabledIsPermanent : Prop :=
  ∀ (s : State) (k : Nat), s.cpu.faulted = false → s.cpu.stopped = false → s.cpu.halted = true →
    s.cpu.imePending = false → s.irq.ie &&& 0x1F = 0 →
    ∃ t, Host.Core.run core k s = .next t ∧ t.cpu = s.cpu ∧ t.ram = s.ram ∧ t.mapper = s.mapper ∧ t.cart = s.cart ∧
      t.irq.ie = s.irq.ie ∧ t.lcd.lineCount = (State.lcdClock (4 * k) s).lcd.lineCount ∧
      t.lcd.ly = (State.lcdClock (4 * k) s).lcd.ly

/-! ### Interrupts -/

/-- 60_exceptions.md R405, R406, R408: with IME set, the machine not stopped and k the lowest enabled and pending bit, the
dispatch check clears bit k of IF, IME, ime_pending and halted, pushes pc and jumps to 0x0040 + 8k; otherwise it does
nothing. -/
def Obligations.DispatchTakesHighestPriority : Prop :=
  ∀ t : State,
    (∀ k < 5, t.cpu.ime = true → t.cpu.stopped = false → t.pendingNow.toNat / 2 ^ k % 2 = 1 →
      t.pendingNow.toNat % 2 ^ k = 0 →
      let cleared : State := { t with irq := { t.irq with iflag := BitVec.ofNat 8 (t.irq.iflag.toNat - 2 ^ k) } }
      let pushed := [(t.cpu.sp - 1, highHalf t.cpu.pc), (t.cpu.sp - 2, lowHalf t.cpu.pc)]
      t.dispatchCheck.cpu =
        { t.cpu with
          pc := BitVec.ofNat 16 (0x0040 + 8 * k), sp := t.cpu.sp - 2
          ime := false, imePending := false, halted := false } ∧
      SameRest (cleared.storeAll pushed) t.dispatchCheck ∧ t.dispatchCheck.out.cycles = t.out.cycles) ∧
    (t.cpu.ime = false ∨ t.cpu.stopped = true ∨ t.pendingNow = 0 → t.dispatchCheck = t)

/-- 70_reset_and_hazards.md R521; 46_misc.md R383, R384: a step of `EI` leaves IME clear; the step after it, unless it is a
`DI`, sets IME, and only then can an interrupt be taken; a `DI` there cancels it. -/
def Obligations.EiTakesEffectAfterTheNextInstruction : Prop :=
  ∀ s : State, s.Running → s.cpu.ime = false →
    (s.cpu.imePending = false → s.memRead s.cpu.pc = 0xFB →
      ∃ t, step s = .next t ∧ t.cpu.ime = false ∧ t.cpu.imePending = true ∧ t.cpu.pc = s.cpu.pc + 1) ∧
    (s.cpu.imePending = true → s.memRead s.cpu.pc = 0xF3 →
      ∃ t, step s = .next t ∧ t.cpu.ime = false ∧ t.cpu.imePending = false ∧ t.cpu.pc = s.cpu.pc + 1) ∧
    (s.cpu.imePending = true → s.memRead s.cpu.pc ≠ 0xF3 → ∀ t, step s = .next t →
      t.cpu.imePending = false ∧
        (t.cpu.ime = true ∨ t.cpu.ime = false ∧ ∃ k < 5, t.cpu.pc = BitVec.ofNat 16 (0x0040 + 8 * k)))

/-- 10_state.md R27: nothing but RETI and the delayed effect of EI sets IME in a step. -/
def Obligations.OnlyRetiAndEiSetIme : Prop :=
  ∀ s t : State, step s = .next t → t.cpu.ime = true → s.cpu.ime = false →
    (s.cpu.halted = false ∧ s.memRead s.cpu.pc = 0xD9) ∨ s.cpu.imePending = true

/-- 60_exceptions.md R412; 45_control.md R345, R347, R349: on a stack in work RAM, the return undoes the entry: `RET` after
`CALL`, and `RETI` after an interrupt dispatch, restore pc and SP. -/
def Obligations.ReturnUndoesCallAndDispatch : Prop :=
  ∀ s : State, s.Stored → 0xC002 ≤ s.cpu.sp.toNat → s.cpu.sp.toNat ≤ 0xE000 →
    (∀ w, ∃ t u, exec (.callA16 w) s = .next t ∧ exec .ret t = .next u ∧ u.cpu = s.cpu) ∧
    (∀ k < 5, ∃ u, exec .reti (s.takeInterrupt k) = .next u ∧ u.cpu.pc = s.cpu.pc ∧ u.cpu.sp = s.cpu.sp ∧
      u.cpu.ime = true)

/-! ### Invariants and whole-machine rules -/

/-- Every step keeps the invariant: the stores stay canonical, F's low nibble 0, the LCD mode and line as the timing table has
them, the hidden counters in range, bank_lo nonzero. -/
def Obligations.StepKeepsInvariant : Prop :=
  ∀ s t : State, s.Inv → step s = .next t → t.Inv

/-- Every state that steps, key events, host memory writes and resets reach from a state with the invariant has it. -/
def Obligations.ReachedStatesMeetInvariant : Prop :=
  ∀ s t : State, s.Inv → Reaches s t → t.Inv

/-- 20_memory.md R86: no event, whether a step or a host operation, changes the cartridge; and a CPU write below 0x8000
changes nothing but the mapper's registers. -/
def Obligations.RomIsImmutable : Prop :=
  (∀ s t : State, Reaches s t → t.cart = s.cart) ∧
  ∀ (s : State) (a : Word) (v : Byte), a.toNat < 0x8000 →
    ∃ m : Mapper, s.memWrite a v = { s with mapper := m } ∧
      ∀ b : Word, b.toNat < 0x4000 → (s.memWrite a v).memRead b = s.memRead b

/-- 10_state.md R35; 60_exceptions.md R400, R455: clocking the devices writes no CPU register, no memory, no mapper, joypad or
link register, and of the interrupt registers only sets bits 0, 1 and 2 of IF. -/
def Obligations.DevicesLeaveCpuAndMemory : Prop :=
  ∀ (n : Nat) (s : State),
    let t := State.clockDevices n s
    t.cpu = s.cpu ∧ t.ram = s.ram ∧ t.mapper = s.mapper ∧ t.cart = s.cart ∧ t.joypad = s.joypad ∧ t.link = s.link ∧
    t.apu.regs = s.apu.regs ∧ t.irq.ie = s.irq.ie ∧ t.out.cycles = s.out.cycles ∧
    ∃ bits : Byte, bits.toNat < 8 ∧ t.irq.iflag = s.irq.iflag ||| bits

/-! ### Memory -/

/-- 20_memory.md R87, R89: VRAM, work RAM, OAM, high RAM and IE read back the last byte written; echo RAM is work RAM for reads
and for writes. Any write leaves every address it does not touch as it was, and every CPU register. -/
def Obligations.RamReadsBackWhatWasWritten : Prop :=
  ∀ (s : State) (a : Word) (v : Byte), s.Stored →
    ((0x8000 ≤ a.toNat ∧ a.toNat < 0xA000) ∨ (0xC000 ≤ a.toNat ∧ a.toNat < 0xFEA0) ∨ 0xFF80 ≤ a.toNat →
      (s.memWrite a v).memRead a = v) ∧
    (∀ b, touches a b = false → (s.memWrite a v).memRead b = s.memRead b) ∧
    (s.memWrite a v).cpu = s.cpu ∧
    (0xE000 ≤ a.toNat → a.toNat < 0xFE00 →
      s.memRead a = s.memRead (a - 0x2000) ∧ s.memWrite a v = s.memWrite (a - 0x2000) v)

/-- 20_memory.md R82, R83, R85, R88, R98: an unmapped address (the unusable region, an unassigned I/O address, cartridge RAM that
does not respond, ROM beyond the image, in the switchable window whatever bank the mapper selects) reads 0xFF, and a write to
one outside ROM changes nothing. SENTINEL = 0xFF is log entry 1; the interface of a supplied mapper is log entry 9. -/
def Obligations.UnmappedReadsSentinel : Prop :=
  ∀ (s : State) (a : Word) (v : Byte),
    ((0xFEA0 ≤ a.toNat ∧ a.toNat < 0xFF00) ∨ a.toNat = 0xFF03 ∨ (0xFF08 ≤ a.toNat ∧ a.toNat ≤ 0xFF0E) ∨
        a.toNat = 0xFF15 ∨ a.toNat = 0xFF1F ∨ (0xFF27 ≤ a.toNat ∧ a.toNat ≤ 0xFF2F) ∨
        (0xFF4C ≤ a.toNat ∧ a.toNat ≤ 0xFF7F) ∨
        (0xA000 ≤ a.toNat ∧ a.toNat < 0xC000 ∧
          (s.cart.kind = .romOnly ∨ s.cart.ramBanks = 0 ∨ (s.cart.kind = .mbc1 ∧ s.mapper.ramEnable = false) ∨
            ∃ code, s.cart.kind = .supplied code ∧ Config.mapperRamEnable code s.mapper.supplied = false)) →
      s.memRead a = 0xFF ∧ s.memWrite a v = s) ∧
    (a.toNat < 0x4000 → s.cart.romLength ≤ a.toNat → s.memRead a = 0xFF) ∧
    (0x4000 ≤ a.toNat → a.toNat < 0x8000 → s.cart.kind = .romOnly → s.cart.romLength ≤ a.toNat → s.memRead a = 0xFF) ∧
    (0x4000 ≤ a.toNat → a.toNat < 0x8000 → s.cart.kind = .mbc1 →
      let bank := (s.mapper.bankLo.toNat + (if s.mapper.bankMode then 0 else 32 * s.mapper.bankHi.toNat)) % s.cart.romBanks
      s.cart.romLength ≤ bank * 0x4000 + (a.toNat - 0x4000) → s.memRead a = 0xFF) ∧
    (∀ code, 0x4000 ≤ a.toNat → a.toNat < 0x8000 → s.cart.kind = .supplied code →
      s.cart.romLength ≤ Config.mapperRomBank code s.mapper.supplied * 0x4000 + (a.toNat - 0x4000) → s.memRead a = 0xFF)

/-- 20_memory.md R82, R83, R96, R97, R98: the ROM windows of mapper `none` and of MBC1, and the MBC1 registers a write below
0x8000 sets. -/
def Obligations.RomBankSelection : Prop :=
  ∀ (s : State) (a : Word) (v : Byte), a.toNat < 0x8000 →
    let m := (s.memWrite a v).mapper
    let bank := (s.mapper.bankLo.toNat + (if s.mapper.bankMode then 0 else 32 * s.mapper.bankHi.toNat)) % s.cart.romBanks
    (a.toNat < 0x4000 → s.memRead a = s.cart.romByte a.toNat) ∧
    (0x4000 ≤ a.toNat → s.cart.kind = .romOnly → s.memRead a = s.cart.romByte a.toNat) ∧
    (0x4000 ≤ a.toNat → s.cart.kind = .mbc1 → s.memRead a = s.cart.romByte (bank * 0x4000 + (a.toNat - 0x4000))) ∧
    (s.cart.kind = .romOnly → s.memWrite a v = s) ∧
    (s.cart.kind = .mbc1 →
      m.ramEnable = (if a.toNat < 0x2000 then decide (v.toNat % 16 = 10) else s.mapper.ramEnable) ∧
      m.bankLo.toNat =
        (if 0x2000 ≤ a.toNat ∧ a.toNat < 0x4000 then (if v.toNat % 32 = 0 then 1 else v.toNat % 32)
          else s.mapper.bankLo.toNat) ∧
      m.bankHi.toNat =
        (if 0x4000 ≤ a.toNat ∧ a.toNat < 0x6000 then v.toNat % 4 else s.mapper.bankHi.toNat) ∧
      m.bankMode = (if 0x6000 ≤ a.toNat then decide (v.toNat % 2 = 1) else s.mapper.bankMode))

/-- 20_memory.md R99: MBC1 cartridge RAM, when present and enabled, is plain storage in the bank the mapper selects. -/
def Obligations.CartridgeRamIsBankedStorage : Prop :=
  ∀ (s : State) (a : Word) (v : Byte), s.Stored → s.cart.kind = .mbc1 → 0 < s.cart.ramBanks →
    s.mapper.ramEnable = true → 0xA000 ≤ a.toNat → a.toNat < 0xC000 →
    let bank := (if s.mapper.bankMode then s.mapper.bankHi.toNat else 0) % s.cart.ramBanks
    s.memRead a = s.ram.cartRam.read (bank * 0x2000 + (a.toNat - 0xA000)) ∧
    (s.memWrite a v).memRead a = v ∧ (s.memWrite a v).mapper = s.mapper ∧
    ∀ k, k ≠ bank * 0x2000 + (a.toNat - 0xA000) → (s.memWrite a v).ram.cartRam.read k = s.ram.cartRam.read k

/-- 20_memory.md R91: a write of v to 0xFF46 stores v and copies the 160 bytes at v << 8 into OAM, each as a read returns it;
nothing else changes. -/
def Obligations.DmaCopiesOnePage : Prop :=
  ∀ (s : State) (v : Byte), s.Stored →
    let t := s.memWrite 0xFF46 v
    t.memRead 0xFF46 = v ∧
    (∀ k < 160, t.memRead (BitVec.ofNat 16 (0xFE00 + k)) =
      if 256 * v.toNat + k = 0xFF46 then v else s.memRead (BitVec.ofNat 16 (256 * v.toNat + k))) ∧
    t = { s with lcd := { s.lcd with dma := v }, ram := { s.ram with oam := t.ram.oam } }

/-- 60_exceptions.md R432, R433, R440, R447, R456, R461, R465; 10_state.md R32, R33; 20_memory.md R88: what a write to each
assigned register of the I/O block and to IE does, and that it does nothing else (a write to DMA is DmaCopiesOnePage). Those
that do not simply store the byte are DIV, STAT, LY and P1; the others store it and read it back. What a read of DIV, STAT,
LY and P1 returns. P1 as its two stored select bits is log entry 13, `ApuModel`'s write hook log entry 8. -/
def Obligations.DeviceRegisterWrites : Prop :=
  ∀ (s : State) (v : Byte),
    (s.memWrite 0xFF04 v = { s with timer := { s.timer with div := 0, divCount := 0 } } ∧
      s.memWrite 0xFF41 v = { s with lcd := { s.lcd with stat := BitVec.ofNat 8 (v.toNat / 8 * 8 + s.lcd.stat.toNat % 8) } } ∧
      s.memWrite 0xFF44 v = s ∧
      s.memWrite 0xFF00 v = { s with joypad := { s.joypad with select := BitVec.ofNat 2 (v.toNat / 16 % 4) } }) ∧
    (s.memWrite 0xFF05 v = { s with timer := { s.timer with tima := v } } ∧
      s.memWrite 0xFF06 v = { s with timer := { s.timer with tma := v } } ∧
      s.memWrite 0xFF07 v = { s with timer := { s.timer with tac := v } } ∧
      s.memWrite 0xFF01 v = { s with link := { s.link with sb := v } } ∧
      s.memWrite 0xFF02 v = { s with link := { s.link with sc := v } } ∧
      s.memWrite 0xFF0F v = { s with irq := { s.irq with iflag := v } } ∧
      s.memWrite 0xFFFF v = { s with irq := { s.irq with ie := v } }) ∧
    (s.memWrite 0xFF40 v = { s with lcd := { s.lcd with lcdc := v } } ∧
      s.memWrite 0xFF42 v = { s with lcd := { s.lcd with scy := v } } ∧
      s.memWrite 0xFF43 v = { s with lcd := { s.lcd with scx := v } } ∧
      s.memWrite 0xFF45 v = { s with lcd := { s.lcd with lyc := v } } ∧
      s.memWrite 0xFF47 v = { s with lcd := { s.lcd with bgp := v } } ∧
      s.memWrite 0xFF48 v = { s with lcd := { s.lcd with obp0 := v } } ∧
      s.memWrite 0xFF49 v = { s with lcd := { s.lcd with obp1 := v } } ∧
      s.memWrite 0xFF4A v = { s with lcd := { s.lcd with wy := v } } ∧
      s.memWrite 0xFF4B v = { s with lcd := { s.lcd with wx := v } }) ∧
    (∀ a ∈ ([0xFF01, 0xFF02, 0xFF05, 0xFF06, 0xFF07, 0xFF0F, 0xFF40, 0xFF42] ++
        [0xFF43, 0xFF45, 0xFF47, 0xFF48, 0xFF49, 0xFF4A, 0xFF4B, 0xFFFF] : List Word), (s.memWrite a v).memRead a = v) ∧
    (s.memRead 0xFF04 = s.timer.div ∧ s.memRead 0xFF41 = s.lcd.stat ∧ s.memRead 0xFF44 = s.lcd.ly ∧
      s.memRead 0xFF00 = BitVec.ofNat 8 (0xC0 + 16 * s.joypad.select.toNat +
        (15 - ((if s.joypad.select.toNat % 2 = 0 then s.joypad.keys.toNat % 16 else 0) |||
          (if s.joypad.select.toNat / 2 = 0 then s.joypad.keys.toNat / 16 else 0))))) ∧
    (s.Stored → ∀ a : Word, (0xFF10 ≤ a.toNat ∧ a.toNat ≤ 0xFF14) ∨ (0xFF16 ≤ a.toNat ∧ a.toNat ≤ 0xFF1E) ∨
        (0xFF20 ≤ a.toNat ∧ a.toNat ≤ 0xFF26) ∨ (0xFF30 ≤ a.toNat ∧ a.toNat ≤ 0xFF3F) →
      (s.memWrite a v).memRead a = v ∧
      s.memWrite a v =
        { s with apu := { regs := (s.memWrite a v).apu.regs, internal := Config.apuWrite a v s.apu.internal } })

/-! ### Devices -/

/-- 60_exceptions.md R431: the timer's tick is the rule's two loops, run as long as the counts allow; nothing but the timer and
bit 2 of IF changes; "The result does not depend on how n cycles are split into calls". -/
def Obligations.TimerTickIsTheRulesLoop : Prop :=
  ∀ (n : Nat) (s : State),
    let t := State.timerTick n s
    let d := divLoop (s.timer.divCount + n) (s.timer.divCount + n) s.timer.div
    let count := s.timer.timaCount + n
    let c := timaLoop (periodOf s.timer.tac) s.timer.tma count count s.timer.tima false
    (t.timer.divCount, t.timer.div) = d ∧ t.timer.tma = s.timer.tma ∧ t.timer.tac = s.timer.tac ∧
    (if s.timer.tac.toNat / 4 % 2 = 1 then
      (t.timer.timaCount, t.timer.tima) = (c.1, c.2.1) ∧
        t.irq.iflag = (if c.2.2 then s.irq.iflag ||| 0x04 else s.irq.iflag)
    else t.timer.timaCount = s.timer.timaCount ∧ t.timer.tima = s.timer.tima ∧ t.irq.iflag = s.irq.iflag) ∧
    t = { s with timer := t.timer, irq := { s.irq with iflag := t.irq.iflag } } ∧
    ∀ m, State.timerTick m t = State.timerTick (n + m) s

/-- 60_exceptions.md R442, R443, R448, R452: from a state that matches the timing table, n clocks move the position in the
70224-cycle frame by n, however they are split, and the state matches the table again. -/
def Obligations.LcdFollowsTheTimingTable : Prop :=
  ∀ (n m : Nat) (s : State), s.lcd.Synced →
    let t := State.lcdClock n s
    t.lcd.Synced ∧
    456 * t.lcd.ly.toNat + t.lcd.lineCount = (456 * s.lcd.ly.toNat + s.lcd.lineCount + n) % 70224 ∧
    State.lcdClock m t = State.lcdClock (n + m) s

/-- 60_exceptions.md R445, R446: the interrupt requests and the line-compare flag of one clock: V-Blank at the start of line
144, LCD-STAT as STAT[4], STAT[3] and STAT[6] enable it, the compare only at the start of lines 0 to 144. -/
def Obligations.LcdRequestsInterrupts : Prop :=
  ∀ s : State, s.lcd.Synced →
    let t := State.lcdTick s
    let newLine := decide (s.lcd.lineCount = 455)
    let line := (s.lcd.ly.toNat + 1) % 154
    let vblank := newLine && decide (line = 144)
    let hblank := decide (s.lcd.ly.toNat < 144 ∧ s.lcd.lineCount = 245)
    let compares := newLine && decide (line ≤ 144)
    let equal := decide (line = s.lcd.lyc.toNat)
    let stat := s.lcd.stat.toNat
    t.irq.iflag = s.irq.iflag ||| (if vblank then 1 else 0) |||
      (if (vblank && decide (bitAt stat 4 = 1)) || (hblank && decide (bitAt stat 3 = 1)) ||
          (compares && equal && decide (bitAt stat 6 = 1)) then 2 else 0) ∧
    bitAt t.lcd.stat.toNat 2 = (if compares then equal.toNat else bitAt stat 2) ∧
    t.lcd.stat.toNat / 8 = stat / 8 ∧ t.irq.ie = s.irq.ie

/-- 60_exceptions.md R449, R450: 456 clocks from the start of a line deliver exactly one scanline, with the line's index, if the line
is visible, drawn from the registers and memories as they are, and none in V-Blank; on the way only the LCD controller, IF and the deliveries change. -/
def Obligations.OneScanlinePerVisibleLine : Prop :=
  ∀ s : State, s.lcd.Synced → s.lcd.lineCount = 0 →
    let t := State.lcdClock 456 s
    (s.lcd.ly.toNat < 144 → t.out.scanlines =
      s.out.scanlines ++ [{ line := s.lcd.ly, pixels := Config.renderLine s.renderInput }]) ∧
    (144 ≤ s.lcd.ly.toNat → t.out.scanlines = s.out.scanlines) ∧
    t.lcd.ly.toNat = (s.lcd.ly.toNat + 1) % 154 ∧
    t = { s with lcd := t.lcd, irq := { s.irq with iflag := t.irq.iflag }, out := { s.out with scanlines := t.out.scanlines } }

/-- 60_exceptions.md R460, R462: a new press sets the key, requests the Joypad interrupt and ends STOP; a press of a pressed key
changes nothing; a release clears the key and requests nothing. That this holds on a faulted machine too is log entry 18
(DESIGN CHOICE: 60_exceptions.md R421 does not list `input` as available then). -/
def Obligations.InputEvents : Prop :=
  ∀ (s : State) (key : Key),
    let n := [Key.right, .left, .up, .down, .a, .b, .select, .start].idxOf key
    (bitAt s.joypad.keys.toNat n = 0 → s.input key true =
      { s with
        joypad := { s.joypad with keys := BitVec.ofNat 8 (withBit s.joypad.keys.toNat n) }
        irq := { s.irq with iflag := BitVec.ofNat 8 (withBit s.irq.iflag.toNat 4) }
        cpu := { s.cpu with stopped := false } }) ∧
    (bitAt s.joypad.keys.toNat n = 1 → s.input key true = s) ∧
    s.input key false = { s with joypad := { s.joypad with keys := BitVec.ofNat 8 (withoutBit s.joypad.keys.toNat n) } }

/-! ### Host operations -/

/-- 70_reset_and_hazards.md R511: `update(n)` then `update(m)` is `update(n + m)`: state, deliveries and report. -/
def Obligations.UpdateComposes : Prop :=
  ∀ (n m : Nat) (s : State), (update n s).andThen (update m) = update (n + m) s

/-- 70_reset_and_hazards.md R517; 10_state.md R31, R39; 60_exceptions.md R421: restoring a snapshot brings back what memory reads
return and every item of the saved state from any later one of the same cartridge, but it does not clear `faulted`. Unless
the machine restored into had faulted and the saved one had not, the restored machine's snapshot and its next N steps,
deliveries included, are those of the machine that was saved; a machine that had faulted still has no step. That a faulted
machine is restored at all is log entry 18 (DESIGN CHOICE); that a snapshot is a value without a layout is log entry 16. -/
def Obligations.SnapshotResumesExactly : Prop :=
  ∀ (s later : State), later.cart = s.cart →
    let t := later.deserialize s.serialize
    (∀ a, t.memRead a = s.memRead a) ∧
    t.serialize = { s.serialize with cpu := { s.cpu with faulted := later.cpu.faulted || s.cpu.faulted } } ∧
    (later.cpu.faulted = false ∨ s.cpu.faulted = true → t.serialize = s.serialize ∧
      ∀ n, Host.Core.run core (n + 1) t = Host.Core.run core (n + 1) s) ∧
    (later.cpu.faulted = true → step t = .refused .machineFaulted)
end

