-- ==== Sys2Proof/Laws/Address.lean ====
section
/-! SUPPORT. The address map: which addresses a region and an I/O register have. -/

namespace Sys2Proof.Machine

/-- The bounds of a region, lower included, upper excluded (20_memory.md R81). -/
def Region.low : Region → Nat
  | .romFixed => 0
  | .romBanked => 0x4000
  | .vram => 0x8000
  | .cartRam => 0xA000
  | .wram => 0xC000
  | .echo => 0xE000
  | .oam => 0xFE00
  | .unusable => 0xFEA0
  | .io => 0xFF00
  | .hram => 0xFF80
  | .ie => 0xFFFF

/-- The first address after a region (20_memory.md R81). -/
def Region.high : Region → Nat
  | .romFixed => 0x4000
  | .romBanked => 0x8000
  | .vram => 0xA000
  | .cartRam => 0xC000
  | .wram => 0xE000
  | .echo => 0xFE00
  | .oam => 0xFEA0
  | .unusable => 0xFF00
  | .io => 0xFF80
  | .hram => 0xFFFF
  | .ie => 0x10000

/-- An address lies in the region the decode gives it. -/
theorem regionOf_bounds {a : Word} {r : Region} (h : regionOf a = r) : r.low ≤ a.toNat ∧ a.toNat < r.high := by
  have := a.isLt
  subst h
  unfold regionOf
  repeat' split
  all_goals simp only [Region.low, Region.high]; omega

/-- The decode gives an address the region it lies in. -/
theorem regionOf_eq {a : Word} {r : Region} (low : r.low ≤ a.toNat) (high : a.toNat < r.high) : regionOf a = r := by
  have h := regionOf_bounds (a := a) rfl
  generalize regionOf a = q at h
  cases r <;> cases q <;> simp only [Region.low, Region.high] at * <;> first | rfl | omega

/-- An address with a register other than the APU's is that register's address; the APU's lie in 0xFF10..0xFF3F. -/
theorem ioRegOf_address {a : Word} {r : IoReg} (h : ioRegOf a = some r) :
    (r ≠ .apu → a.toNat = r.address) ∧ (r = .apu → 0xFF10 ≤ a.toNat ∧ a.toNat < 0xFF40) := by
  unfold ioRegOf at h
  split at h
  · rename_i q hq
    cases h
    have hm := List.mem_of_find?_eq_some hq
    have hp := List.find?_some hq
    refine ⟨fun _ => (by simpa using hp : r.address = a.toNat).symm, fun e => ?_⟩
    subst e
    exact absurd hm (by decide)
  · split at h
    · rename_i hap
      cases h
      simp only [apuAddress, Bool.or_eq_true, decide_eq_true_eq] at hap
      exact ⟨fun e => absurd rfl e, fun _ => by omega⟩
    · cases h

/-- Two addresses of one register other than the APU's are equal. -/
theorem ioRegOf_injective {a b : Word} {r : IoReg} (ha : ioRegOf a = some r) (hb : ioRegOf b = some r) (hr : r ≠ .apu) :
    a = b :=
  BitVec.eq_of_toNat_eq (((ioRegOf_address ha).1 hr).trans ((ioRegOf_address hb).1 hr).symm)

/-- A register's address carries it. -/
theorem ioRegOf_of_address {a : Word} {r : IoReg} (hr : r ≠ .apu) (h : a.toNat = r.address) : ioRegOf a = some r := by
  unfold ioRegOf
  rw [h]
  cases r <;> first | exact absurd rfl hr | rfl

/-- No register but the APU's has an address where no register is. -/
theorem find_single_none {n : Nat} (h : ∀ r ∈ IoReg.single, r.address ≠ n) :
    (IoReg.single.find? fun r => r.address == n) = none := by
  rw [List.find?_eq_none]
  intro r hr
  simpa using h r hr

/-- An address of the APU carries its registers. -/
theorem ioRegOf_apu {a : Word} (h : (0xFF10 ≤ a.toNat ∧ a.toNat ≤ 0xFF14) ∨ (0xFF16 ≤ a.toNat ∧ a.toNat ≤ 0xFF1E) ∨
    (0xFF20 ≤ a.toNat ∧ a.toNat ≤ 0xFF26) ∨ (0xFF30 ≤ a.toNat ∧ a.toNat ≤ 0xFF3F)) : ioRegOf a = some .apu := by
  have hn : (IoReg.single.find? fun r => r.address == a.toNat) = none := by
    apply find_single_none
    intro r hr
    cases r <;> first | exact absurd hr (by decide) | simp only [IoReg.address]; omega
  have hap : apuAddress a.toNat = true := by
    simp only [apuAddress, Bool.or_eq_true, decide_eq_true_eq]
    omega
  simp [ioRegOf, hn, hap]

/-- An unassigned address of the I/O block carries no register (20_memory.md R88). -/
theorem ioRegOf_unassigned {a : Word} (h : a.toNat = 0xFF03 ∨ (0xFF08 ≤ a.toNat ∧ a.toNat ≤ 0xFF0E) ∨ a.toNat = 0xFF15 ∨
    a.toNat = 0xFF1F ∨ (0xFF27 ≤ a.toNat ∧ a.toNat ≤ 0xFF2F) ∨ (0xFF4C ≤ a.toNat ∧ a.toNat ≤ 0xFF7F)) :
    ioRegOf a = none := by
  have hn : (IoReg.single.find? fun r => r.address == a.toNat) = none := by
    apply find_single_none
    intro r _
    cases r <;> simp only [IoReg.address] <;> omega
  have hap : apuAddress a.toNat = false := by
    rw [Bool.eq_false_iff]
    simp only [apuAddress, ne_eq, Bool.or_eq_true, decide_eq_true_eq]
    omega
  simp [ioRegOf, hn, hap]

end Sys2Proof.Machine
end

