-- ==== Sys2Proof/Laws/Arith.lean ====
section
/-! SUPPORT. The bit-level helpers of the model in the arithmetic of the rules: halves by division, flags by weight, offsets
by signed addition. -/

namespace Sys2Proof.Machine

/-! ### Halves of a 16-bit value -/

theorem wordOf_eq_fromHalves (hi lo : Byte) : wordOf hi lo = fromHalves hi lo := by
  apply BitVec.eq_of_toNat_eq
  have h1 := hi.isLt
  have h2 := lo.isLt
  simp only [wordOf, fromHalves, BitVec.toNat_append, BitVec.toNat_ofNat]
  rw [← Nat.shiftLeft_add_eq_or_of_lt (by simpa using h2), Nat.shiftLeft_eq]
  omega

theorem toNat_fromHalves (hi lo : Byte) : (fromHalves hi lo).toNat = 256 * hi.toNat + lo.toNat := by
  have h1 := hi.isLt
  have h2 := lo.isLt
  simp only [fromHalves, BitVec.toNat_ofNat]
  omega

theorem hiByte_eq_highHalf (v : Word) : hiByte v = highHalf v := by
  apply BitVec.eq_of_toNat_eq
  have := v.isLt
  simp only [hiByte, highHalf, BitVec.extractLsb'_toNat, BitVec.toNat_ofNat, Nat.shiftRight_eq_div_pow]

theorem loByte_eq_lowHalf (v : Word) : loByte v = lowHalf v := by
  apply BitVec.eq_of_toNat_eq
  simp [loByte, lowHalf]

theorem highHalf_fromHalves (hi lo : Byte) : highHalf (fromHalves hi lo) = hi := by
  apply BitVec.eq_of_toNat_eq
  have h1 := hi.isLt
  have h2 := lo.isLt
  simp only [highHalf, toNat_fromHalves, BitVec.toNat_ofNat]
  omega

theorem lowHalf_fromHalves (hi lo : Byte) : lowHalf (fromHalves hi lo) = lo := by
  apply BitVec.eq_of_toNat_eq
  have h1 := hi.isLt
  have h2 := lo.isLt
  simp only [lowHalf, toNat_fromHalves, BitVec.toNat_ofNat]
  omega

theorem fromHalves_halves (v : Word) : fromHalves (highHalf v) (lowHalf v) = v := by
  apply BitVec.eq_of_toNat_eq
  have h1 := v.isLt
  simp only [toNat_fromHalves, highHalf, lowHalf, BitVec.toNat_ofNat]
  omega

/-! ### Address arithmetic -/

theorem word_add_one (w : Word) : w + 1 = BitVec.ofNat 16 (w.toNat + 1) := by
  apply BitVec.eq_of_toNat_eq
  simp [BitVec.toNat_add]

theorem word_add_two (w : Word) : w + 2 = BitVec.ofNat 16 (w.toNat + 2) := by
  apply BitVec.eq_of_toNat_eq
  simp [BitVec.toNat_add]

theorem word_sub_one (w : Word) : w - 1 = BitVec.ofNat 16 (w.toNat + 0xFFFF) := by
  apply BitVec.eq_of_toNat_eq
  have := w.isLt
  simp [BitVec.toNat_sub]
  omega

theorem word_add (x y : Word) : x + y = BitVec.ofNat 16 (x.toNat + y.toNat) := by
  apply BitVec.eq_of_toNat_eq
  simp [BitVec.toNat_add]

theorem highPage_eq (n : Byte) : highPage n = BitVec.ofNat 16 (0xFF00 + n.toNat) := by
  apply BitVec.eq_of_toNat_eq
  have := n.isLt
  simp [highPage, zext16, BitVec.toNat_add]

theorem toNat_sext16 (e : Byte) : (sext16 e).toNat = if e.toNat < 128 then e.toNat else e.toNat + 0xFF00 := by
  revert e; decide

theorem add_sext16_eq_offsetBy (w : Word) (e : Byte) : w + sext16 e = offsetBy w e := by
  apply BitVec.eq_of_toNat_eq
  have h1 := w.isLt
  have h2 := e.isLt
  rw [offsetBy, BitVec.toNat_add, BitVec.toNat_ofInt, BitVec.toInt_eq_toNat_cond, toNat_sext16]
  split <;> split <;> omega

/-! ### Flags -/

theorem toByte_eq_flagByte (g : Flags) : g.toByte = flagByte g.z g.n g.h g.c := by
  obtain ⟨z, n, h, c⟩ := g
  cases z <;> cases n <;> cases h <;> cases c <;> rfl

theorem flagZ_eq (s : State) : s.flagZ = zOf s.cpu.f := by
  have : ∀ f : Byte, bitOf f 7 = zOf f := by decide
  exact this _

theorem flagN_eq (s : State) : s.flagN = nOf s.cpu.f := by
  have : ∀ f : Byte, bitOf f 6 = nOf f := by decide
  exact this _

theorem flagH_eq (s : State) : s.flagH = hOf s.cpu.f := by
  have : ∀ f : Byte, bitOf f 5 = hOf f := by decide
  exact this _

theorem flagC_eq (s : State) : s.flagC = cOf s.cpu.f := by
  have : ∀ f : Byte, bitOf f 4 = cOf f := by decide
  exact this _

@[simp] theorem zOf_flagByte (z n h c : Bool) : zOf (flagByte z n h c) = z := by
  cases z <;> cases n <;> cases h <;> cases c <;> rfl

@[simp] theorem nOf_flagByte (z n h c : Bool) : nOf (flagByte z n h c) = n := by
  cases z <;> cases n <;> cases h <;> cases c <;> rfl

@[simp] theorem hOf_flagByte (z n h c : Bool) : hOf (flagByte z n h c) = h := by
  cases z <;> cases n <;> cases h <;> cases c <;> rfl

@[simp] theorem cOf_flagByte (z n h c : Bool) : cOf (flagByte z n h c) = c := by
  cases z <;> cases n <;> cases h <;> cases c <;> rfl

/-- F as a byte of flags has a zero low nibble. -/
@[simp] theorem flagByte_low (z n h c : Bool) : (flagByte z n h c).extractLsb' 0 4 = 0 := by
  cases z <;> cases n <;> cases h <;> cases c <;> rfl

/-- The mask of `POP AF` keeps the four flags and clears the low nibble. -/
theorem and_f0_eq_flagByte (x : Byte) : x &&& 0xF0 = flagByte (zOf x) (nOf x) (hOf x) (cOf x) := by
  revert x; decide

theorem cond_eq_holds (s : State) (k : Cond) : s.cond k = holds s.cpu.f k := by
  cases k <;> simp [State.cond, holds, flagZ_eq, flagC_eq]

/-! ### Results -/

/-- A byte is zero exactly if its number is. -/
theorem byte_beq_zero (v : Byte) : (v == 0) = decide (v.toNat = 0) := by
  by_cases h : v = 0
  · simp [h]
  · have : v.toNat ≠ 0 := fun e => h (BitVec.eq_of_toNat_eq (by simpa using e))
    rw [beq_eq_false_iff_ne.mpr h, decide_eq_false this]

theorem sub_value (a b : Byte) (c : Bool) :
    a - b - BitVec.ofNat 8 c.toNat = BitVec.ofInt 8 ((a.toNat : Int) - b.toNat - c.toNat) := by
  apply BitVec.eq_of_toNat_eq
  have h1 := a.isLt
  have h2 := b.isLt
  have h3 : c.toNat ≤ 1 := by cases c <;> decide
  simp only [BitVec.toNat_sub, BitVec.toNat_ofNat, BitVec.toNat_ofInt]
  omega

/-- Bit `n` of a byte, by division. -/
theorem bitOf_eq_bitAt (v : Byte) (n : Nat) : bitOf v n = decide (bitAt v.toNat n = 1) := by
  rw [bitOf, bitAt, BitVec.getLsbD, Nat.testBit_eq_decide_div_mod_eq]

theorem clear_bit_eq (v : Byte) (n : BitVec 3) : v &&& ~~~bitMask n.toNat = op (withoutBit v.toNat n.toNat) := by
  revert v n; decide

theorem set_bit_eq (v : Byte) (n : BitVec 3) : v ||| bitMask n.toNat = op (withBit v.toNat n.toNat) := by
  revert v n; decide

/-- Complementing a byte is subtracting it from 255. -/
theorem complement_eq (v : Byte) : v ^^^ 0xFF = BitVec.ofNat 8 (255 - v.toNat) := by
  revert v; decide

end Sys2Proof.Machine
end

