-- ==== Sys2Proof/Laws/Memory.lean ====
section
/-! SUPPORT. The laws of the sparse byte stores: read after write, and every write keeps the canonical form. -/

namespace Sys2Proof.Machine

/-- Below the first key a canonical store reads the unlisted byte. -/
theorem Memory.read_below {m : Memory} {lo k : Nat} (h : m.wfFrom lo = true) (hk : k < lo) :
    m.read k = Config.unlistedByte := by
  induction m generalizing lo with
  | nil => rfl
  | cons cell rest ih =>
    obtain ⟨key, v⟩ := cell
    simp only [wfFrom, Bool.and_eq_true, decide_eq_true_eq] at h
    have hne : key ≠ k := by omega
    simp only [read, hne, if_false]
    exact ih h.2 (by omega)

/-- A canonical form from `hi` on is one from any lower bound on. -/
theorem Memory.wfFrom_mono {m : Memory} {lo hi : Nat} (h : m.wfFrom hi = true) (hle : lo ≤ hi) : m.wfFrom lo = true := by
  cases m with
  | nil => rfl
  | cons cell rest =>
    obtain ⟨key, v⟩ := cell
    simp only [wfFrom, Bool.and_eq_true, decide_eq_true_eq] at h ⊢
    exact ⟨⟨by omega, h.1.2⟩, h.2⟩

/-- A read of the written key returns the written byte. -/
theorem Memory.read_write_same {m : Memory} {lo : Nat} (h : m.wfFrom lo = true) (k : Nat) (v : Byte) :
    (m.write k v).read k = v := by
  induction m generalizing lo with
  | nil => by_cases hv : v = Config.unlistedByte <;> simp [write, read, hv]
  | cons cell rest ih =>
    obtain ⟨key, w⟩ := cell
    simp only [wfFrom, Bool.and_eq_true, decide_eq_true_eq] at h
    have below (hk : k ≤ key) : Memory.read rest k = Config.unlistedByte := read_below h.2 (by omega)
    by_cases h1 : k < key
    · by_cases hv : v = Config.unlistedByte
      · simp [write, h1, hv, read, Nat.ne_of_gt h1, below (Nat.le_of_lt h1)]
      · simp [write, h1, hv, read]
    · by_cases h2 : k = key
      · by_cases hv : v = Config.unlistedByte
        · simp [write, h2, hv]; rw [← h2]; exact below (by omega)
        · simp [write, h2, hv, read]
      · have hne : key ≠ k := fun e => h2 e.symm
        simp only [write, h1, h2, if_false, read, hne]
        exact ih h.2

/-- A read of any other key is unchanged. -/
theorem Memory.read_write_other (m : Memory) {k j : Nat} (hne : j ≠ k) (v : Byte) : (m.write k v).read j = m.read j := by
  induction m with
  | nil => by_cases hv : v = Config.unlistedByte <;> simp [write, read, hv, hne.symm]
  | cons cell rest ih =>
    obtain ⟨key, w⟩ := cell
    by_cases h1 : k < key
    · by_cases hv : v = Config.unlistedByte <;> simp [write, h1, hv, read, hne.symm]
    · by_cases h2 : k = key
      · subst h2
        by_cases hv : v = Config.unlistedByte <;> simp [write, hv, read, hne.symm]
      · simp [write, h1, h2, read, ih]

/-- A write keeps the canonical form. -/
theorem Memory.wfFrom_write {m : Memory} {lo k : Nat} (h : m.wfFrom lo = true) (hk : lo ≤ k) (v : Byte) :
    (m.write k v).wfFrom lo = true := by
  induction m generalizing lo with
  | nil => by_cases hv : v = Config.unlistedByte <;> simp [write, wfFrom, hv, hk]
  | cons cell rest ih =>
    obtain ⟨key, w⟩ := cell
    have h' := h
    simp only [wfFrom, Bool.and_eq_true, decide_eq_true_eq] at h
    by_cases h1 : k < key
    · by_cases hv : v = Config.unlistedByte
      · simpa [write, h1, hv] using h'
      · simp only [write, h1, hv, if_true, if_false, wfFrom, Bool.and_eq_true, decide_eq_true_eq, bne_iff_ne, ne_eq,
          not_false_eq_true, and_true]
        exact ⟨hk, ⟨by omega, by simpa using h.1.2⟩, h.2⟩
    · by_cases h2 : k = key
      · subst h2
        by_cases hv : v = Config.unlistedByte
        · simp only [write, hv, if_true, Nat.lt_irrefl, if_false]
          exact wfFrom_mono h.2 (by omega)
        · simp [write, hv, wfFrom, hk, h.2]
      · simp only [write, h1, h2, if_false, wfFrom, Bool.and_eq_true, decide_eq_true_eq]
        exact ⟨h.1, ih h.2 (by omega)⟩

/-- A write below `hi` leaves every key below `hi`. -/
theorem Memory.all_write {m : Memory} {hi k : Nat} (h : (m.all fun cell => decide (cell.1 < hi)) = true) (hk : k < hi)
    (v : Byte) : ((m.write k v).all fun cell => decide (cell.1 < hi)) = true := by
  induction m with
  | nil => by_cases hv : v = Config.unlistedByte <;> simp [write, hv, hk]
  | cons cell rest ih =>
    obtain ⟨key, w⟩ := cell
    simp only [List.all_cons, Bool.and_eq_true, decide_eq_true_eq] at h
    by_cases h1 : k < key
    · by_cases hv : v = Config.unlistedByte <;> simp [write, h1, hv, hk, h.1, -List.all_eq_true, h.2]
    · by_cases h2 : k = key
      · by_cases hv : v = Config.unlistedByte <;> simp [write, h2, hv, h.1, -List.all_eq_true, h.2]
      · simp [write, h1, h2, h.1, -List.all_eq_true, ih h.2]

/-- A write to a key in range keeps a store canonical and in range. -/
theorem Memory.within_write {m : Memory} {lo hi k : Nat} (h : m.within lo hi = true) (h1 : lo ≤ k) (h2 : k < hi) (v : Byte) :
    (m.write k v).within lo hi = true := by
  simp only [within, Bool.and_eq_true] at h ⊢
  exact ⟨wfFrom_write h.1 h1 v, all_write h.2 h2 v⟩

/-- A store within a range is canonical. -/
theorem Memory.wfFrom_of_within {m : Memory} {lo hi : Nat} (h : m.within lo hi = true) : m.wfFrom lo = true := by
  simp only [within, Bool.and_eq_true] at h
  exact h.1

/-- Every write keeps `Memory.wf`. -/
theorem Memory.wf_write {m : Memory} (h : m.wf = true) (k : Nat) (v : Byte) : (m.write k v).wf = true :=
  wfFrom_write h (Nat.zero_le k) v

/-- The store of a list of bytes is canonical. -/
theorem Memory.wfFrom_ofBytes (start : Nat) (bytes : List Byte) : (ofBytes start bytes).wfFrom start = true := by
  induction bytes generalizing start with
  | nil => rfl
  | cons v rest ih =>
    by_cases hv : v = Config.unlistedByte
    · simp only [ofBytes, hv, if_true]
      exact wfFrom_mono (ih (start + 1)) (by omega)
    · simp [ofBytes, hv, wfFrom, ih]

/-- The store of a list of bytes reads back the list, and the unlisted byte after it. -/
theorem Memory.read_ofBytes (start k : Nat) (bytes : List Byte) :
    (ofBytes start bytes).read (start + k) = bytes.getD k Config.unlistedByte := by
  induction bytes generalizing start k with
  | nil => rfl
  | cons v rest ih =>
    cases k with
    | zero =>
      by_cases hv : v = Config.unlistedByte
      · simp only [ofBytes, hv, if_true]
        simpa [hv] using read_below (wfFrom_ofBytes (start + 1) rest) (by omega)
      · simp [ofBytes, hv, read]
    | succ j =>
      have e : start + (j + 1) = start + 1 + j := by omega
      by_cases hv : v = Config.unlistedByte
      · simp only [ofBytes, hv, if_true, List.getD_cons_succ]
        rw [e, ih]
      · have hne : start ≠ start + 1 + j := by omega
        simp only [ofBytes, hv, if_false, read, e, hne, List.getD_cons_succ]
        exact ih (start + 1) j

/-- The keys of the store of a list of bytes lie below its end. -/
theorem Memory.all_ofBytes (start : Nat) (bytes : List Byte) (hi : Nat) (h : start + bytes.length ≤ hi) :
    ((ofBytes start bytes).all fun cell => decide (cell.1 < hi)) = true := by
  induction bytes generalizing start with
  | nil => rfl
  | cons v rest ih =>
    simp only [List.length_cons] at h
    have := ih (start + 1) (by omega)
    by_cases hv : v = Config.unlistedByte
    · simpa only [ofBytes, hv, if_true] using this
    · simp only [ofBytes, hv, if_false, List.all_cons, this, Bool.and_true, decide_eq_true_eq]
      omega

end Sys2Proof.Machine
end

