-- ==== Sys2Proof/Laws/State.lean ====
section
/-! SUPPORT. What each state update leaves in each field of State, so that no later proof unfolds a record update. -/

namespace Sys2Proof.Machine

variable (s : State)

/-! ### `setA` -/

@[simp] theorem State.setA_cpu (v : Byte) : (s.setA v).cpu = { s.cpu with a := v } := rfl
@[simp] theorem State.setA_irq (v : Byte) : (s.setA v).irq = s.irq := rfl
@[simp] theorem State.setA_timer (v : Byte) : (s.setA v).timer = s.timer := rfl
@[simp] theorem State.setA_lcd (v : Byte) : (s.setA v).lcd = s.lcd := rfl
@[simp] theorem State.setA_joypad (v : Byte) : (s.setA v).joypad = s.joypad := rfl
@[simp] theorem State.setA_link (v : Byte) : (s.setA v).link = s.link := rfl
@[simp] theorem State.setA_apu (v : Byte) : (s.setA v).apu = s.apu := rfl
@[simp] theorem State.setA_mapper (v : Byte) : (s.setA v).mapper = s.mapper := rfl
@[simp] theorem State.setA_cart (v : Byte) : (s.setA v).cart = s.cart := rfl
@[simp] theorem State.setA_ram (v : Byte) : (s.setA v).ram = s.ram := rfl
@[simp] theorem State.setA_out (v : Byte) : (s.setA v).out = s.out := rfl

/-! ### `setF` -/

@[simp] theorem State.setF_cpu (v : Byte) : (s.setF v).cpu = { s.cpu with f := v } := rfl
@[simp] theorem State.setF_irq (v : Byte) : (s.setF v).irq = s.irq := rfl
@[simp] theorem State.setF_timer (v : Byte) : (s.setF v).timer = s.timer := rfl
@[simp] theorem State.setF_lcd (v : Byte) : (s.setF v).lcd = s.lcd := rfl
@[simp] theorem State.setF_joypad (v : Byte) : (s.setF v).joypad = s.joypad := rfl
@[simp] theorem State.setF_link (v : Byte) : (s.setF v).link = s.link := rfl
@[simp] theorem State.setF_apu (v : Byte) : (s.setF v).apu = s.apu := rfl
@[simp] theorem State.setF_mapper (v : Byte) : (s.setF v).mapper = s.mapper := rfl
@[simp] theorem State.setF_cart (v : Byte) : (s.setF v).cart = s.cart := rfl
@[simp] theorem State.setF_ram (v : Byte) : (s.setF v).ram = s.ram := rfl
@[simp] theorem State.setF_out (v : Byte) : (s.setF v).out = s.out := rfl

/-! ### `setSp` -/

@[simp] theorem State.setSp_cpu (v : Word) : (s.setSp v).cpu = { s.cpu with sp := v } := rfl
@[simp] theorem State.setSp_irq (v : Word) : (s.setSp v).irq = s.irq := rfl
@[simp] theorem State.setSp_timer (v : Word) : (s.setSp v).timer = s.timer := rfl
@[simp] theorem State.setSp_lcd (v : Word) : (s.setSp v).lcd = s.lcd := rfl
@[simp] theorem State.setSp_joypad (v : Word) : (s.setSp v).joypad = s.joypad := rfl
@[simp] theorem State.setSp_link (v : Word) : (s.setSp v).link = s.link := rfl
@[simp] theorem State.setSp_apu (v : Word) : (s.setSp v).apu = s.apu := rfl
@[simp] theorem State.setSp_mapper (v : Word) : (s.setSp v).mapper = s.mapper := rfl
@[simp] theorem State.setSp_cart (v : Word) : (s.setSp v).cart = s.cart := rfl
@[simp] theorem State.setSp_ram (v : Word) : (s.setSp v).ram = s.ram := rfl
@[simp] theorem State.setSp_out (v : Word) : (s.setSp v).out = s.out := rfl

/-! ### `setPc` -/

@[simp] theorem State.setPc_cpu (v : Word) : (s.setPc v).cpu = { s.cpu with pc := v } := rfl
@[simp] theorem State.setPc_irq (v : Word) : (s.setPc v).irq = s.irq := rfl
@[simp] theorem State.setPc_timer (v : Word) : (s.setPc v).timer = s.timer := rfl
@[simp] theorem State.setPc_lcd (v : Word) : (s.setPc v).lcd = s.lcd := rfl
@[simp] theorem State.setPc_joypad (v : Word) : (s.setPc v).joypad = s.joypad := rfl
@[simp] theorem State.setPc_link (v : Word) : (s.setPc v).link = s.link := rfl
@[simp] theorem State.setPc_apu (v : Word) : (s.setPc v).apu = s.apu := rfl
@[simp] theorem State.setPc_mapper (v : Word) : (s.setPc v).mapper = s.mapper := rfl
@[simp] theorem State.setPc_cart (v : Word) : (s.setPc v).cart = s.cart := rfl
@[simp] theorem State.setPc_ram (v : Word) : (s.setPc v).ram = s.ram := rfl
@[simp] theorem State.setPc_out (v : Word) : (s.setPc v).out = s.out := rfl

/-! ### `setBc` -/

@[simp] theorem State.setBc_cpu (v : Word) : (s.setBc v).cpu = { s.cpu with b := hiByte v, c := loByte v } := rfl
@[simp] theorem State.setBc_irq (v : Word) : (s.setBc v).irq = s.irq := rfl
@[simp] theorem State.setBc_timer (v : Word) : (s.setBc v).timer = s.timer := rfl
@[simp] theorem State.setBc_lcd (v : Word) : (s.setBc v).lcd = s.lcd := rfl
@[simp] theorem State.setBc_joypad (v : Word) : (s.setBc v).joypad = s.joypad := rfl
@[simp] theorem State.setBc_link (v : Word) : (s.setBc v).link = s.link := rfl
@[simp] theorem State.setBc_apu (v : Word) : (s.setBc v).apu = s.apu := rfl
@[simp] theorem State.setBc_mapper (v : Word) : (s.setBc v).mapper = s.mapper := rfl
@[simp] theorem State.setBc_cart (v : Word) : (s.setBc v).cart = s.cart := rfl
@[simp] theorem State.setBc_ram (v : Word) : (s.setBc v).ram = s.ram := rfl
@[simp] theorem State.setBc_out (v : Word) : (s.setBc v).out = s.out := rfl

/-! ### `setDe` -/

@[simp] theorem State.setDe_cpu (v : Word) : (s.setDe v).cpu = { s.cpu with d := hiByte v, e := loByte v } := rfl
@[simp] theorem State.setDe_irq (v : Word) : (s.setDe v).irq = s.irq := rfl
@[simp] theorem State.setDe_timer (v : Word) : (s.setDe v).timer = s.timer := rfl
@[simp] theorem State.setDe_lcd (v : Word) : (s.setDe v).lcd = s.lcd := rfl
@[simp] theorem State.setDe_joypad (v : Word) : (s.setDe v).joypad = s.joypad := rfl
@[simp] theorem State.setDe_link (v : Word) : (s.setDe v).link = s.link := rfl
@[simp] theorem State.setDe_apu (v : Word) : (s.setDe v).apu = s.apu := rfl
@[simp] theorem State.setDe_mapper (v : Word) : (s.setDe v).mapper = s.mapper := rfl
@[simp] theorem State.setDe_cart (v : Word) : (s.setDe v).cart = s.cart := rfl
@[simp] theorem State.setDe_ram (v : Word) : (s.setDe v).ram = s.ram := rfl
@[simp] theorem State.setDe_out (v : Word) : (s.setDe v).out = s.out := rfl

/-! ### `setHl` -/

@[simp] theorem State.setHl_cpu (v : Word) : (s.setHl v).cpu = { s.cpu with h := hiByte v, l := loByte v } := rfl
@[simp] theorem State.setHl_irq (v : Word) : (s.setHl v).irq = s.irq := rfl
@[simp] theorem State.setHl_timer (v : Word) : (s.setHl v).timer = s.timer := rfl
@[simp] theorem State.setHl_lcd (v : Word) : (s.setHl v).lcd = s.lcd := rfl
@[simp] theorem State.setHl_joypad (v : Word) : (s.setHl v).joypad = s.joypad := rfl
@[simp] theorem State.setHl_link (v : Word) : (s.setHl v).link = s.link := rfl
@[simp] theorem State.setHl_apu (v : Word) : (s.setHl v).apu = s.apu := rfl
@[simp] theorem State.setHl_mapper (v : Word) : (s.setHl v).mapper = s.mapper := rfl
@[simp] theorem State.setHl_cart (v : Word) : (s.setHl v).cart = s.cart := rfl
@[simp] theorem State.setHl_ram (v : Word) : (s.setHl v).ram = s.ram := rfl
@[simp] theorem State.setHl_out (v : Word) : (s.setHl v).out = s.out := rfl

/-! ### `setFlags` -/

@[simp] theorem State.setFlags_cpu (g : Flags) : (s.setFlags g).cpu = { s.cpu with f := g.toByte } := rfl
@[simp] theorem State.setFlags_irq (g : Flags) : (s.setFlags g).irq = s.irq := rfl
@[simp] theorem State.setFlags_timer (g : Flags) : (s.setFlags g).timer = s.timer := rfl
@[simp] theorem State.setFlags_lcd (g : Flags) : (s.setFlags g).lcd = s.lcd := rfl
@[simp] theorem State.setFlags_joypad (g : Flags) : (s.setFlags g).joypad = s.joypad := rfl
@[simp] theorem State.setFlags_link (g : Flags) : (s.setFlags g).link = s.link := rfl
@[simp] theorem State.setFlags_apu (g : Flags) : (s.setFlags g).apu = s.apu := rfl
@[simp] theorem State.setFlags_mapper (g : Flags) : (s.setFlags g).mapper = s.mapper := rfl
@[simp] theorem State.setFlags_cart (g : Flags) : (s.setFlags g).cart = s.cart := rfl
@[simp] theorem State.setFlags_ram (g : Flags) : (s.setFlags g).ram = s.ram := rfl
@[simp] theorem State.setFlags_out (g : Flags) : (s.setFlags g).out = s.out := rfl

/-! ### `spend` -/

@[simp] theorem State.spend_cpu (n : Nat) : (s.spend n).cpu = s.cpu := rfl
@[simp] theorem State.spend_irq (n : Nat) : (s.spend n).irq = s.irq := rfl
@[simp] theorem State.spend_timer (n : Nat) : (s.spend n).timer = s.timer := rfl
@[simp] theorem State.spend_lcd (n : Nat) : (s.spend n).lcd = s.lcd := rfl
@[simp] theorem State.spend_joypad (n : Nat) : (s.spend n).joypad = s.joypad := rfl
@[simp] theorem State.spend_link (n : Nat) : (s.spend n).link = s.link := rfl
@[simp] theorem State.spend_apu (n : Nat) : (s.spend n).apu = s.apu := rfl
@[simp] theorem State.spend_mapper (n : Nat) : (s.spend n).mapper = s.mapper := rfl
@[simp] theorem State.spend_cart (n : Nat) : (s.spend n).cart = s.cart := rfl
@[simp] theorem State.spend_ram (n : Nat) : (s.spend n).ram = s.ram := rfl
@[simp] theorem State.spend_out (n : Nat) : (s.spend n).out = { s.out with cycles := n } := rfl

/-! ### `popDrop` -/

@[simp] theorem State.popDrop_cpu : (s.popDrop).cpu = { s.cpu with sp := s.cpu.sp + 2 } := rfl
@[simp] theorem State.popDrop_irq : (s.popDrop).irq = s.irq := rfl
@[simp] theorem State.popDrop_timer : (s.popDrop).timer = s.timer := rfl
@[simp] theorem State.popDrop_lcd : (s.popDrop).lcd = s.lcd := rfl
@[simp] theorem State.popDrop_joypad : (s.popDrop).joypad = s.joypad := rfl
@[simp] theorem State.popDrop_link : (s.popDrop).link = s.link := rfl
@[simp] theorem State.popDrop_apu : (s.popDrop).apu = s.apu := rfl
@[simp] theorem State.popDrop_mapper : (s.popDrop).mapper = s.mapper := rfl
@[simp] theorem State.popDrop_cart : (s.popDrop).cart = s.cart := rfl
@[simp] theorem State.popDrop_ram : (s.popDrop).ram = s.ram := rfl
@[simp] theorem State.popDrop_out : (s.popDrop).out = s.out := rfl

/-! ### `advancePc` -/

@[simp] theorem State.advancePc_cpu (i : Instr) :
    (s.advancePc i).cpu = { s.cpu with pc := s.cpu.pc + BitVec.ofNat 16 i.length } := rfl
@[simp] theorem State.advancePc_irq (i : Instr) : (s.advancePc i).irq = s.irq := rfl
@[simp] theorem State.advancePc_timer (i : Instr) : (s.advancePc i).timer = s.timer := rfl
@[simp] theorem State.advancePc_lcd (i : Instr) : (s.advancePc i).lcd = s.lcd := rfl
@[simp] theorem State.advancePc_joypad (i : Instr) : (s.advancePc i).joypad = s.joypad := rfl
@[simp] theorem State.advancePc_link (i : Instr) : (s.advancePc i).link = s.link := rfl
@[simp] theorem State.advancePc_apu (i : Instr) : (s.advancePc i).apu = s.apu := rfl
@[simp] theorem State.advancePc_mapper (i : Instr) : (s.advancePc i).mapper = s.mapper := rfl
@[simp] theorem State.advancePc_cart (i : Instr) : (s.advancePc i).cart = s.cart := rfl
@[simp] theorem State.advancePc_ram (i : Instr) : (s.advancePc i).ram = s.ram := rfl
@[simp] theorem State.advancePc_out (i : Instr) : (s.advancePc i).out = s.out := rfl

/-! ### `request` -/

@[simp] theorem State.request_cpu (k : Nat) : (s.request k).cpu = s.cpu := rfl
@[simp] theorem State.request_irq (k : Nat) :
    (s.request k).irq = { s.irq with iflag := s.irq.iflag ||| bitMask k } := rfl
@[simp] theorem State.request_timer (k : Nat) : (s.request k).timer = s.timer := rfl
@[simp] theorem State.request_lcd (k : Nat) : (s.request k).lcd = s.lcd := rfl
@[simp] theorem State.request_joypad (k : Nat) : (s.request k).joypad = s.joypad := rfl
@[simp] theorem State.request_link (k : Nat) : (s.request k).link = s.link := rfl
@[simp] theorem State.request_apu (k : Nat) : (s.request k).apu = s.apu := rfl
@[simp] theorem State.request_mapper (k : Nat) : (s.request k).mapper = s.mapper := rfl
@[simp] theorem State.request_cart (k : Nat) : (s.request k).cart = s.cart := rfl
@[simp] theorem State.request_ram (k : Nat) : (s.request k).ram = s.ram := rfl
@[simp] theorem State.request_out (k : Nat) : (s.request k).out = s.out := rfl

/-! ### `setMode` -/

@[simp] theorem State.setMode_cpu (m : BitVec 2) : (s.setMode m).cpu = s.cpu := rfl
@[simp] theorem State.setMode_irq (m : BitVec 2) : (s.setMode m).irq = s.irq := rfl
@[simp] theorem State.setMode_timer (m : BitVec 2) : (s.setMode m).timer = s.timer := rfl
@[simp] theorem State.setMode_lcd (m : BitVec 2) :
    (s.setMode m).lcd = { s.lcd with stat := (s.lcd.stat &&& 0xFC) ||| m.zeroExtend 8 } := rfl
@[simp] theorem State.setMode_joypad (m : BitVec 2) : (s.setMode m).joypad = s.joypad := rfl
@[simp] theorem State.setMode_link (m : BitVec 2) : (s.setMode m).link = s.link := rfl
@[simp] theorem State.setMode_apu (m : BitVec 2) : (s.setMode m).apu = s.apu := rfl
@[simp] theorem State.setMode_mapper (m : BitVec 2) : (s.setMode m).mapper = s.mapper := rfl
@[simp] theorem State.setMode_cart (m : BitVec 2) : (s.setMode m).cart = s.cart := rfl
@[simp] theorem State.setMode_ram (m : BitVec 2) : (s.setMode m).ram = s.ram := rfl
@[simp] theorem State.setMode_out (m : BitVec 2) : (s.setMode m).out = s.out := rfl

/-! ### `deliverScanline` -/

@[simp] theorem State.deliverScanline_cpu : (s.deliverScanline).cpu = s.cpu := rfl
@[simp] theorem State.deliverScanline_irq : (s.deliverScanline).irq = s.irq := rfl
@[simp] theorem State.deliverScanline_timer : (s.deliverScanline).timer = s.timer := rfl
@[simp] theorem State.deliverScanline_lcd : (s.deliverScanline).lcd = s.lcd := rfl
@[simp] theorem State.deliverScanline_joypad : (s.deliverScanline).joypad = s.joypad := rfl
@[simp] theorem State.deliverScanline_link : (s.deliverScanline).link = s.link := rfl
@[simp] theorem State.deliverScanline_apu : (s.deliverScanline).apu = s.apu := rfl
@[simp] theorem State.deliverScanline_mapper : (s.deliverScanline).mapper = s.mapper := rfl
@[simp] theorem State.deliverScanline_cart : (s.deliverScanline).cart = s.cart := rfl
@[simp] theorem State.deliverScanline_ram : (s.deliverScanline).ram = s.ram := rfl
@[simp] theorem State.deliverScanline_out :
    (s.deliverScanline).out = { s.out with scanlines := s.out.scanlines ++ [{ line := s.lcd.ly, pixels := Config.renderLine s.renderInput }] } := rfl

/-! ### `beginStep` -/

@[simp] theorem State.beginStep_cpu : (s.beginStep).cpu = s.cpu := rfl
@[simp] theorem State.beginStep_irq : (s.beginStep).irq = s.irq := rfl
@[simp] theorem State.beginStep_timer : (s.beginStep).timer = s.timer := rfl
@[simp] theorem State.beginStep_lcd : (s.beginStep).lcd = s.lcd := rfl
@[simp] theorem State.beginStep_joypad : (s.beginStep).joypad = s.joypad := rfl
@[simp] theorem State.beginStep_link : (s.beginStep).link = s.link := rfl
@[simp] theorem State.beginStep_apu : (s.beginStep).apu = s.apu := rfl
@[simp] theorem State.beginStep_mapper : (s.beginStep).mapper = s.mapper := rfl
@[simp] theorem State.beginStep_cart : (s.beginStep).cart = s.cart := rfl
@[simp] theorem State.beginStep_ram : (s.beginStep).ram = s.ram := rfl
@[simp] theorem State.beginStep_out : (s.beginStep).out = StepOut.empty := rfl

/-! ### `idle` -/

@[simp] theorem State.idle_cpu : (s.idle).cpu = s.cpu := rfl
@[simp] theorem State.idle_irq : (s.idle).irq = s.irq := rfl
@[simp] theorem State.idle_timer : (s.idle).timer = s.timer := rfl
@[simp] theorem State.idle_lcd : (s.idle).lcd = s.lcd := rfl
@[simp] theorem State.idle_joypad : (s.idle).joypad = s.joypad := rfl
@[simp] theorem State.idle_link : (s.idle).link = s.link := rfl
@[simp] theorem State.idle_apu : (s.idle).apu = s.apu := rfl
@[simp] theorem State.idle_mapper : (s.idle).mapper = s.mapper := rfl
@[simp] theorem State.idle_cart : (s.idle).cart = s.cart := rfl
@[simp] theorem State.idle_ram : (s.idle).ram = s.ram := rfl
@[simp] theorem State.idle_out : (s.idle).out = { s.out with cycles := Config.idleCycles } := rfl

/-! ### `hostReset` -/

@[simp] theorem State.hostReset_cpu : (s.hostReset).cpu = Cpu.reset := rfl
@[simp] theorem State.hostReset_irq : (s.hostReset).irq = Irq.reset := rfl
@[simp] theorem State.hostReset_timer : (s.hostReset).timer = Timer.reset := rfl
@[simp] theorem State.hostReset_lcd : (s.hostReset).lcd = Lcd.reset := rfl
@[simp] theorem State.hostReset_joypad : (s.hostReset).joypad = Joypad.reset := rfl
@[simp] theorem State.hostReset_link : (s.hostReset).link = Link.reset := rfl
@[simp] theorem State.hostReset_apu : (s.hostReset).apu = Apu.reset := rfl
@[simp] theorem State.hostReset_mapper : (s.hostReset).mapper = Mapper.reset s.cart.kind := rfl
@[simp] theorem State.hostReset_cart : (s.hostReset).cart = s.cart := rfl
@[simp] theorem State.hostReset_ram : (s.hostReset).ram = s.ram := rfl
@[simp] theorem State.hostReset_out : (s.hostReset).out = StepOut.empty := rfl

/-! ### `setReg` -/

@[simp] theorem State.setReg_irq (r : Reg8) (v : Byte) : (s.setReg r v).irq = s.irq := by cases r <;> rfl
@[simp] theorem State.setReg_timer (r : Reg8) (v : Byte) : (s.setReg r v).timer = s.timer := by cases r <;> rfl
@[simp] theorem State.setReg_lcd (r : Reg8) (v : Byte) : (s.setReg r v).lcd = s.lcd := by cases r <;> rfl
@[simp] theorem State.setReg_joypad (r : Reg8) (v : Byte) : (s.setReg r v).joypad = s.joypad := by cases r <;> rfl
@[simp] theorem State.setReg_link (r : Reg8) (v : Byte) : (s.setReg r v).link = s.link := by cases r <;> rfl
@[simp] theorem State.setReg_apu (r : Reg8) (v : Byte) : (s.setReg r v).apu = s.apu := by cases r <;> rfl
@[simp] theorem State.setReg_mapper (r : Reg8) (v : Byte) : (s.setReg r v).mapper = s.mapper := by cases r <;> rfl
@[simp] theorem State.setReg_cart (r : Reg8) (v : Byte) : (s.setReg r v).cart = s.cart := by cases r <;> rfl
@[simp] theorem State.setReg_ram (r : Reg8) (v : Byte) : (s.setReg r v).ram = s.ram := by cases r <;> rfl
@[simp] theorem State.setReg_out (r : Reg8) (v : Byte) : (s.setReg r v).out = s.out := by cases r <;> rfl

/-! ### `setPair` -/

@[simp] theorem State.setPair_irq (p : Pair) (v : Word) : (s.setPair p v).irq = s.irq := by cases p <;> rfl
@[simp] theorem State.setPair_timer (p : Pair) (v : Word) : (s.setPair p v).timer = s.timer := by cases p <;> rfl
@[simp] theorem State.setPair_lcd (p : Pair) (v : Word) : (s.setPair p v).lcd = s.lcd := by cases p <;> rfl
@[simp] theorem State.setPair_joypad (p : Pair) (v : Word) : (s.setPair p v).joypad = s.joypad := by cases p <;> rfl
@[simp] theorem State.setPair_link (p : Pair) (v : Word) : (s.setPair p v).link = s.link := by cases p <;> rfl
@[simp] theorem State.setPair_apu (p : Pair) (v : Word) : (s.setPair p v).apu = s.apu := by cases p <;> rfl
@[simp] theorem State.setPair_mapper (p : Pair) (v : Word) : (s.setPair p v).mapper = s.mapper := by cases p <;> rfl
@[simp] theorem State.setPair_cart (p : Pair) (v : Word) : (s.setPair p v).cart = s.cart := by cases p <;> rfl
@[simp] theorem State.setPair_ram (p : Pair) (v : Word) : (s.setPair p v).ram = s.ram := by cases p <;> rfl
@[simp] theorem State.setPair_out (p : Pair) (v : Word) : (s.setPair p v).out = s.out := by cases p <;> rfl

/-! ### `setStackPair` -/

@[simp] theorem State.setStackPair_irq (p : StackPair) (v : Word) : (s.setStackPair p v).irq = s.irq := by cases p <;> rfl
@[simp] theorem State.setStackPair_timer (p : StackPair) (v : Word) : (s.setStackPair p v).timer = s.timer := by cases p <;> rfl
@[simp] theorem State.setStackPair_lcd (p : StackPair) (v : Word) : (s.setStackPair p v).lcd = s.lcd := by cases p <;> rfl
@[simp] theorem State.setStackPair_joypad (p : StackPair) (v : Word) : (s.setStackPair p v).joypad = s.joypad := by cases p <;> rfl
@[simp] theorem State.setStackPair_link (p : StackPair) (v : Word) : (s.setStackPair p v).link = s.link := by cases p <;> rfl
@[simp] theorem State.setStackPair_apu (p : StackPair) (v : Word) : (s.setStackPair p v).apu = s.apu := by cases p <;> rfl
@[simp] theorem State.setStackPair_mapper (p : StackPair) (v : Word) : (s.setStackPair p v).mapper = s.mapper := by cases p <;> rfl
@[simp] theorem State.setStackPair_cart (p : StackPair) (v : Word) : (s.setStackPair p v).cart = s.cart := by cases p <;> rfl
@[simp] theorem State.setStackPair_ram (p : StackPair) (v : Word) : (s.setStackPair p v).ram = s.ram := by cases p <;> rfl
@[simp] theorem State.setStackPair_out (p : StackPair) (v : Word) : (s.setStackPair p v).out = s.out := by cases p <;> rfl

/-! ### Registers after a register update -/

/-- A register reads what was last written to it, and the other registers are kept. -/
theorem State.reg_setReg (r q : Reg8) (v : Byte) : (s.setReg r v).reg q = if q = r then v else s.reg q := by
  cases r <;> cases q <;> rfl

end Sys2Proof.Machine
end

