-- ==== Sys2Proof/Laws/Ops.lean ====
section
/-! SUPPORT. One spec lemma per shared operation: what a memory read depends on, and everything a memory write and a DMA copy
can do. -/

namespace Sys2Proof.Machine

/-! ### Reads -/

/-- A read depends on nothing but the devices and memories. -/
theorem State.memRead_congr {s t : State} (irq : t.irq = s.irq) (timer : t.timer = s.timer) (lcd : t.lcd = s.lcd)
    (joypad : t.joypad = s.joypad) (link : t.link = s.link) (apu : t.apu = s.apu) (mapper : t.mapper = s.mapper)
    (cart : t.cart = s.cart) (ram : t.ram = s.ram) (a : Word) : t.memRead a = s.memRead a := by
  cases s; cases t
  dsimp only at irq timer lcd joypad link apu mapper cart ram
  subst irq timer lcd joypad link apu mapper cart ram
  rfl

theorem SameRest.memRead {s t : State} (h : SameRest s t) (a : Word) : t.memRead a = s.memRead a :=
  State.memRead_congr h.irq h.timer h.lcd h.joypad h.link h.apu h.mapper h.cart h.ram a

theorem SameRest.refl (s : State) : SameRest s s := ⟨rfl, rfl, rfl, rfl, rfl, rfl, rfl, rfl, rfl, rfl, rfl⟩

theorem SameRest.trans {s t u : State} (h : SameRest s t) (k : SameRest t u) : SameRest s u :=
  ⟨k.irq.trans h.irq, k.timer.trans h.timer, k.lcd.trans h.lcd, k.joypad.trans h.joypad, k.link.trans h.link,
    k.apu.trans h.apu, k.mapper.trans h.mapper, k.cart.trans h.cart, k.ram.trans h.ram, k.scanlines.trans h.scanlines,
    k.audio.trans h.audio⟩

/-- A read of an address whose region is known. -/
theorem State.memRead_eq {a : Word} {r : Region} (h : regionOf a = r) (s : State) : s.memRead a = s.regionRead a r := by
  rw [State.memRead, h]

/-- A write to an address whose region is known. -/
theorem State.memWrite_eq {a : Word} {r : Region} (h : regionOf a = r) (s : State) (v : Byte) :
    s.memWrite a v = s.regionWrite a v r := by
  rw [State.memWrite, h]

/-- A read of an I/O address whose register is known. -/
theorem State.memRead_io {a : Word} {r : IoReg} (h : regionOf a = .io) (hr : ioRegOf a = some r) (s : State) :
    s.memRead a = s.ioRead a r := by
  rw [State.memRead_eq h, State.regionRead, hr]

/-- A write to an I/O address whose register is known. -/
theorem State.memWrite_io {a : Word} {r : IoReg} (h : regionOf a = .io) (hr : ioRegOf a = some r) (s : State) (v : Byte) :
    s.memWrite a v = s.ioWrite a v r := by
  rw [State.memWrite_eq h, State.regionWrite, hr]

/-! ### The state apart from the CPU and the outputs -/

/-- `s` with another CPU and other outputs. -/
def State.reframe (s : State) (c : Cpu) (o : StepOut) : State := { s with cpu := c, out := o }

@[simp] theorem State.reframe_cpu (s : State) (c : Cpu) (o : StepOut) : (s.reframe c o).cpu = c := rfl
@[simp] theorem State.reframe_out (s : State) (c : Cpu) (o : StepOut) : (s.reframe c o).out = o := rfl
@[simp] theorem State.reframe_irq (s : State) (c : Cpu) (o : StepOut) : (s.reframe c o).irq = s.irq := rfl
@[simp] theorem State.reframe_timer (s : State) (c : Cpu) (o : StepOut) : (s.reframe c o).timer = s.timer := rfl
@[simp] theorem State.reframe_lcd (s : State) (c : Cpu) (o : StepOut) : (s.reframe c o).lcd = s.lcd := rfl
@[simp] theorem State.reframe_joypad (s : State) (c : Cpu) (o : StepOut) : (s.reframe c o).joypad = s.joypad := rfl
@[simp] theorem State.reframe_link (s : State) (c : Cpu) (o : StepOut) : (s.reframe c o).link = s.link := rfl
@[simp] theorem State.reframe_apu (s : State) (c : Cpu) (o : StepOut) : (s.reframe c o).apu = s.apu := rfl
@[simp] theorem State.reframe_mapper (s : State) (c : Cpu) (o : StepOut) : (s.reframe c o).mapper = s.mapper := rfl
@[simp] theorem State.reframe_cart (s : State) (c : Cpu) (o : StepOut) : (s.reframe c o).cart = s.cart := rfl
@[simp] theorem State.reframe_ram (s : State) (c : Cpu) (o : StepOut) : (s.reframe c o).ram = s.ram := rfl
@[simp] theorem State.reframe_memRead (s : State) (c : Cpu) (o : StepOut) (a : Word) :
    (s.reframe c o).memRead a = s.memRead a := State.memRead_congr rfl rfl rfl rfl rfl rfl rfl rfl rfl a
@[simp] theorem State.reframe_reframe (s : State) (c d : Cpu) (o p : StepOut) :
    (s.reframe c o).reframe d p = s.reframe d p := rfl
@[simp] theorem State.reframe_self (s : State) : s.reframe s.cpu s.out = s := rfl

/-! ### The DMA copy -/

/-- The DMA copy changes OAM and nothing else. -/
theorem State.dmaCopy_eq (s : State) (v : Byte) (n : Nat) :
    s.dmaCopy v n = { s with ram := { s.ram with oam := (s.dmaCopy v n).ram.oam } } := by
  induction n with
  | zero => rfl
  | succ n ih =>
    simp only [State.dmaCopy]
    rw [ih]

/-- The DMA copy does not see the CPU or the outputs. -/
theorem State.dmaCopy_reframe (s : State) (c : Cpu) (o : StepOut) (v : Byte) (n : Nat) :
    (s.reframe c o).dmaCopy v n = (s.dmaCopy v n).reframe c o := by
  induction n with
  | zero => rfl
  | succ n ih =>
    simp only [State.dmaCopy, ih, State.reframe_memRead]
    rfl

/-- The DMA copy keeps OAM canonical. -/
theorem State.dmaCopy_oam_within {s : State} (h : s.ram.oam.within 0xFE00 0xFEA0 = true) (v : Byte) {n : Nat}
    (hn : n ≤ 160) : (s.dmaCopy v n).ram.oam.within 0xFE00 0xFEA0 = true := by
  induction n with
  | zero => exact h
  | succ n ih => exact Memory.within_write (ih (by omega)) (by omega) (by omega) _

/-- A read outside OAM is not changed by the DMA copy. -/
theorem State.dmaCopy_memRead (s : State) (v : Byte) (n : Nat) {b : Word} (hb : regionOf b ≠ .oam) :
    (s.dmaCopy v n).memRead b = s.memRead b := by
  rw [State.dmaCopy_eq]
  unfold State.memRead
  cases h : regionOf b <;> first | rfl | exact absurd h hb

/-- A write to the DMA register changes the register, OAM, and nothing else. -/
theorem State.dmaWrite_eq (s : State) (v : Byte) :
    s.dmaWrite v =
      { s with lcd := { s.lcd with dma := v }, ram := { s.ram with oam := (s.dmaWrite v).ram.oam } } := by
  rw [State.dmaWrite, State.dmaCopy_eq]

theorem State.dmaWrite_reframe (s : State) (c : Cpu) (o : StepOut) (v : Byte) :
    (s.reframe c o).dmaWrite v = (s.dmaWrite v).reframe c o :=
  State.dmaCopy_reframe { s with lcd := { s.lcd with dma := v } } c o v 160

/-! ### Writes -/

theorem State.ioWrite_reframe (s : State) (c : Cpu) (o : StepOut) (a : Word) (v : Byte) (r : IoReg) :
    (s.reframe c o).ioWrite a v r = (s.ioWrite a v r).reframe c o := by
  cases r
  case dma => exact State.dmaWrite_reframe s c o v
  all_goals rfl

/-- A write commutes with a change of the CPU or of the outputs. -/
theorem State.memWrite_reframe (s : State) (c : Cpu) (o : StepOut) (a : Word) (v : Byte) :
    (s.reframe c o).memWrite a v = (s.memWrite a v).reframe c o := by
  unfold State.memWrite
  cases regionOf a
  case io =>
    simp only [State.regionWrite]
    cases ioRegOf a with
    | none => rfl
    | some r => exact State.ioWrite_reframe s c o a v r
  case cartRam =>
    have e : (s.reframe c o).regionWrite a v .cartRam =
        if s.mapper.ramOn s.cart = true then
          State.reframe { s with ram := { s.ram with cartRam := s.ram.cartRam.write (s.cartRamOffset a) v } } c o
        else s.reframe c o := rfl
    rw [e, State.regionWrite]
    split <;> rfl
  all_goals rfl

@[simp] theorem State.memWrite_cpu (s : State) (a : Word) (v : Byte) : (s.memWrite a v).cpu = s.cpu := by
  have := congrArg State.cpu (State.memWrite_reframe s s.cpu s.out a v)
  simpa using this

@[simp] theorem State.memWrite_out (s : State) (a : Word) (v : Byte) : (s.memWrite a v).out = s.out := by
  have := congrArg State.out (State.memWrite_reframe s s.cpu s.out a v)
  simpa using this

/-- What no write to an I/O register changes. -/
structure IoKeeps (s t : State) : Prop where
  cart : t.cart = s.cart
  mapper : t.mapper = s.mapper
  ly : t.lcd.ly = s.lcd.ly
  lineCount : t.lcd.lineCount = s.lcd.lineCount
  mode : t.lcd.stat.extractLsb' 0 2 = s.lcd.stat.extractLsb' 0 2
  keys : t.joypad.keys = s.joypad.keys
  timaCount : t.timer.timaCount = s.timer.timaCount
  divCount : t.timer.divCount = s.timer.divCount ∨ t.timer.divCount = 0

theorem IoKeeps.refl (s : State) : IoKeeps s s := ⟨rfl, rfl, rfl, rfl, rfl, rfl, rfl, .inl rfl⟩

/-- The low bits of STAT are the controller's: no write changes them (60_exceptions.md R447). -/
theorem stat_write_low (v old : Byte) : ((v &&& 0xF8) ||| (old &&& 0x07)).extractLsb' 0 2 = old.extractLsb' 0 2 := by
  apply BitVec.eq_of_getLsbD_eq
  intro i hi
  have : i = 0 ∨ i = 1 := by omega
  rcases this with rfl | rfl <;> simp

theorem State.ioWrite_keeps (s : State) (a : Word) (v : Byte) (r : IoReg) : IoKeeps s (s.ioWrite a v r) := by
  cases r
  case dma =>
    rw [State.ioWrite, State.dmaWrite_eq]
    exact ⟨rfl, rfl, rfl, rfl, rfl, rfl, rfl, .inl rfl⟩
  case stat => exact ⟨rfl, rfl, rfl, rfl, stat_write_low v s.lcd.stat, rfl, rfl, .inl rfl⟩
  case div => exact ⟨rfl, rfl, rfl, rfl, rfl, rfl, rfl, .inr rfl⟩
  all_goals exact ⟨rfl, rfl, rfl, rfl, rfl, rfl, rfl, .inl rfl⟩

/-- The cartridge, the LCD controller's position and mode, the pressed keys and the hidden counters after any write: DIV's
counter may be cleared, the rest is kept. -/
structure WriteKeeps (s t : State) : Prop where
  cart : t.cart = s.cart
  ly : t.lcd.ly = s.lcd.ly
  lineCount : t.lcd.lineCount = s.lcd.lineCount
  mode : t.lcd.stat.extractLsb' 0 2 = s.lcd.stat.extractLsb' 0 2
  keys : t.joypad.keys = s.joypad.keys
  timaCount : t.timer.timaCount = s.timer.timaCount
  divCount : t.timer.divCount = s.timer.divCount ∨ t.timer.divCount = 0

theorem State.memWrite_keeps (s : State) (a : Word) (v : Byte) : WriteKeeps s (s.memWrite a v) := by
  have refl : WriteKeeps s s := ⟨rfl, rfl, rfl, rfl, rfl, rfl, .inl rfl⟩
  unfold State.memWrite
  cases regionOf a <;> simp only [State.regionWrite]
  case io =>
    split
    · obtain ⟨h1, -, h3, h4, h5, h6, h7, h8⟩ := State.ioWrite_keeps s a v ‹_›
      exact ⟨h1, h3, h4, h5, h6, h7, h8⟩
    · exact refl
  case cartRam => split <;> exact ⟨rfl, rfl, rfl, rfl, rfl, rfl, .inl rfl⟩
  all_goals exact ⟨rfl, rfl, rfl, rfl, rfl, rfl, .inl rfl⟩

@[simp] theorem State.memWrite_cart (s : State) (a : Word) (v : Byte) : (s.memWrite a v).cart = s.cart :=
  (State.memWrite_keeps s a v).cart

/-- `bank_lo` is never written to 0 (20_memory.md R97, R98). -/
theorem Mapper.write_bankLo {m : Mapper} (h : m.bankLo ≠ 0) (cart : Cartridge) (a : Word) (v : Byte) :
    (m.write cart a v).bankLo ≠ 0 := by
  unfold Mapper.write
  split
  · exact h
  · unfold Mapper.mbc1Write
    split_ifs <;> first | exact h | exact (by decide : (1#5 : BitVec 5) ≠ 0) | assumption
  · exact h

theorem State.memWrite_bankLo {s : State} (h : s.mapper.bankLo ≠ 0) (a : Word) (v : Byte) :
    (s.memWrite a v).mapper.bankLo ≠ 0 := by
  unfold State.memWrite
  cases regionOf a <;> simp only [State.regionWrite]
  case io =>
    split
    · rw [(State.ioWrite_keeps s a v _).mapper]
      exact h
    · exact h
  case cartRam => split <;> exact h
  case romFixed => exact Mapper.write_bankLo h s.cart a v
  case romBanked => exact Mapper.write_bankLo h s.cart a v
  all_goals exact h

/-! ### The stores stay canonical -/

theorem State.ioWrite_stored {s : State} (h : s.Stored) {a : Word} {r : IoReg} (hr : ioRegOf a = some r) (v : Byte) :
    (s.ioWrite a v r).Stored := by
  obtain ⟨h1, h2, h3, h4, h5, h6, h7⟩ := h
  cases r
  case apu =>
    have := (ioRegOf_address hr).2 rfl
    exact ⟨h1, h2, h3, h4, h5, Memory.within_write h6 this.1 this.2 v, h7⟩
  case dma =>
    have w : (s.dmaWrite v).ram.oam.within 0xFE00 0xFEA0 = true := by
      rw [State.dmaWrite]
      exact State.dmaCopy_oam_within (by exact h4) v (Nat.le_refl 160)
    rw [State.ioWrite, State.dmaWrite_eq]
    constructor <;> dsimp only
    exacts [h1, h2, h3, w, h5, h6, h7]
  all_goals exact ⟨h1, h2, h3, h4, h5, h6, h7⟩

theorem Mapper.ramOn_banks {m : Mapper} {cart : Cartridge} (h : m.ramOn cart = true) : 0 < cart.ramBanks := by
  unfold Mapper.ramOn at h
  split at h <;> simp_all

theorem Mapper.ramBank_lt {m : Mapper} {cart : Cartridge} (h : m.ramOn cart = true) : m.ramBank cart < cart.ramBanks := by
  have hb := Mapper.ramOn_banks h
  unfold Mapper.ramBank
  split
  · exact hb
  · exact Nat.mod_lt _ hb
  · exact Nat.mod_lt _ hb

/-- Every memory write keeps every store of the machine canonical and within its own locations. -/
theorem State.memWrite_stored {s : State} (h : s.Stored) (a : Word) (v : Byte) : (s.memWrite a v).Stored := by
  have hs := h
  obtain ⟨h1, h2, h3, h4, h5, h6, h7⟩ := h
  have hr := regionOf_bounds (a := a) rfl
  unfold State.memWrite
  generalize regionOf a = r at hr
  cases r <;> simp only [State.regionWrite, Region.low, Region.high] at hr ⊢
  case vram => exact ⟨Memory.within_write h1 hr.1 hr.2 v, h2, h3, h4, h5, h6, h7⟩
  case cartRam =>
    split
    · rename_i on
      have := Mapper.ramBank_lt on
      refine ⟨h1, Memory.within_write h2 (Nat.zero_le _) ?_ v, h3, h4, h5, h6, h7⟩
      show s.mapper.ramBank s.cart * 0x2000 + (a.toNat - 0xA000) < s.cart.ramBanks * 0x2000
      omega
    · exact hs
  case wram => exact ⟨h1, h2, Memory.within_write h3 hr.1 hr.2 v, h4, h5, h6, h7⟩
  case echo => exact ⟨h1, h2, Memory.within_write h3 (by omega) (by omega) v, h4, h5, h6, h7⟩
  case oam => exact ⟨h1, h2, h3, Memory.within_write h4 hr.1 hr.2 v, h5, h6, h7⟩
  case unusable => exact hs
  case io =>
    split
    · exact State.ioWrite_stored hs ‹_› v
    · exact hs
  case hram => exact ⟨h1, h2, h3, h4, Memory.within_write h5 hr.1 hr.2 v, h6, h7⟩
  all_goals exact ⟨h1, h2, h3, h4, h5, h6, h7⟩

end Sys2Proof.Machine
end

