-- ==== Sys2Proof/Laws/Frame.lean ====
section
/-! SUPPORT. Read after write through the whole address map: the written location reads back, and no address that a write
does not touch reads differently. -/

namespace Sys2Proof.Machine

/-- Different addresses have different numbers. -/
theorem toNat_ne_of_ne {a b : Word} (h : a ≠ b) : b.toNat ≠ a.toNat := fun e => h (BitVec.eq_of_toNat_eq e.symm)

/-- Outside work RAM, the DMA register and ROM, a write touches its own address only. -/
theorem touches_self_only {a b : Word} (h1 : 0x8000 ≤ a.toNat) (h2 : a.toNat < 0xC000 ∨ 0xFE00 ≤ a.toNat)
    (h3 : a.toNat ≠ 0xFF46) (h : touches a b = false) : a ≠ b := by
  unfold touches at h
  split_ifs at h with c1 c2
  · omega
  · omega
  · simpa using h

/-- Reads below 0x4000 do not see the mapper (20_memory.md R82). -/
theorem State.romOffset_low (s : State) {a : Word} (h : a.toNat < 0x4000) : s.romOffset a = a.toNat := by
  simp [State.romOffset, h]

/-- A write to one I/O register changes no other register that the CPU reads. -/
theorem State.ioRead_ioWrite (s : State) {a b : Word} {r q : IoReg} (v : Byte) (h : q ≠ r ∨ (r = .apu ∧ a ≠ b)) :
    (s.ioWrite a v r).ioRead b q = s.ioRead b q := by
  cases r
  case dma =>
    have hq : q ≠ .dma := h.elim id fun e => absurd e.1 (by decide)
    rw [State.ioWrite, State.dmaWrite_eq]
    cases q
    case dma => exact absurd rfl hq
    all_goals rfl
  case apu =>
    cases q
    case apu =>
      have hne : a ≠ b := h.elim (fun e => absurd rfl e) fun e => e.2
      exact Memory.read_write_other s.apu.regs (toNat_ne_of_ne hne) v
    all_goals rfl
  all_goals
    have hq := h.resolve_right fun e => absurd e.1 (by decide)
    cases q <;> first | exact absurd rfl hq | rfl

/-- A write to an I/O register other than DMA changes no read outside the I/O block. -/
theorem State.regionRead_ioWrite (s : State) (a b : Word) (v : Byte) (r : IoReg) (q : Region) (hq : q ≠ .io)
    (hr : r ≠ .dma ∨ q ≠ .oam) : (s.ioWrite a v r).regionRead b q = s.regionRead b q := by
  cases r
  case dma =>
    have ho : q ≠ .oam := hr.resolve_left fun e => e rfl
    rw [State.ioWrite, State.dmaWrite_eq]
    cases q
    case io => exact absurd rfl hq
    case oam => exact absurd rfl ho
    all_goals rfl
  all_goals cases q <;> first | exact absurd rfl hq | rfl

/-- A write changes no read at an address it does not touch. -/
theorem State.memWrite_frame (s : State) {a b : Word} (v : Byte) (h : touches a b = false) :
    (s.memWrite a v).memRead b = s.memRead b := by
  have ha := regionOf_bounds (a := a) rfl
  have hb := regionOf_bounds (a := b) rfl
  unfold State.memWrite State.memRead
  generalize ea : regionOf a = ra at *
  generalize eb : regionOf b = rb at *
  cases ra <;> simp only [Region.low, Region.high] at ha
  case romFixed =>
    have hw : ¬(0x4000 ≤ b.toNat ∧ b.toNat < 0x8000) ∧ ¬(0xA000 ≤ b.toNat ∧ b.toNat < 0xC000) := by
      rw [touches, if_pos (by omega)] at h
      simpa only [Bool.or_eq_false_iff, decide_eq_false_iff_not] using h
    cases rb <;> simp only [Region.low, Region.high] at hb
    case romFixed => simp only [State.regionWrite, State.regionRead, State.romOffset_low _ hb.2]
    case romBanked => exact absurd hb hw.1
    case cartRam => exact absurd hb hw.2
    all_goals rfl
  case romBanked =>
    have hw : ¬(0x4000 ≤ b.toNat ∧ b.toNat < 0x8000) ∧ ¬(0xA000 ≤ b.toNat ∧ b.toNat < 0xC000) := by
      rw [touches, if_pos (by omega)] at h
      simpa only [Bool.or_eq_false_iff, decide_eq_false_iff_not] using h
    cases rb <;> simp only [Region.low, Region.high] at hb
    case romFixed => simp only [State.regionWrite, State.regionRead, State.romOffset_low _ hb.2]
    case romBanked => exact absurd hb hw.1
    case cartRam => exact absurd hb hw.2
    all_goals rfl
  case vram =>
    have hne := touches_self_only (by omega) (by omega) (by omega) h
    cases rb
    case vram => exact Memory.read_write_other s.ram.vram (toNat_ne_of_ne hne) v
    all_goals rfl
  case cartRam =>
    have hne := touches_self_only (by omega) (by omega) (by omega) h
    simp only [State.regionWrite]
    split
    · cases rb
      case cartRam =>
        simp only [Region.low, Region.high] at hb
        have hoff : s.cartRamOffset b ≠ s.cartRamOffset a := by
          intro e
          have e' : b.toNat - 0xA000 = a.toNat - 0xA000 := Nat.add_left_cancel e
          exact toNat_ne_of_ne hne (by omega)
        have := Memory.read_write_other s.ram.cartRam hoff v
        show (if s.mapper.ramOn s.cart = true then (s.ram.cartRam.write (s.cartRamOffset a) v).read (s.cartRamOffset b)
          else Config.sentinel) = (if s.mapper.ramOn s.cart = true then s.ram.cartRam.read (s.cartRamOffset b) else Config.sentinel)
        rw [this]
      all_goals rfl
    · rfl
  case wram =>
    have hw : ¬(0xC000 ≤ b.toNat ∧ b.toNat < 0xFE00 ∧ a.toNat % 0x2000 = b.toNat % 0x2000) := by
      rw [touches, if_neg (by omega), if_pos (by omega)] at h
      simpa only [decide_eq_false_iff_not] using h
    cases rb <;> simp only [Region.low, Region.high] at hb
    case wram => exact Memory.read_write_other s.ram.wram (by omega) v
    case echo => exact Memory.read_write_other s.ram.wram (by omega) v
    all_goals rfl
  case echo =>
    have hw : ¬(0xC000 ≤ b.toNat ∧ b.toNat < 0xFE00 ∧ a.toNat % 0x2000 = b.toNat % 0x2000) := by
      rw [touches, if_neg (by omega), if_pos (by omega)] at h
      simpa only [decide_eq_false_iff_not] using h
    cases rb <;> simp only [Region.low, Region.high] at hb
    case wram => exact Memory.read_write_other s.ram.wram (by omega) v
    case echo => exact Memory.read_write_other s.ram.wram (by omega) v
    all_goals rfl
  case oam =>
    have hne := touches_self_only (by omega) (by omega) (by omega) h
    cases rb
    case oam => exact Memory.read_write_other s.ram.oam (toNat_ne_of_ne hne) v
    all_goals rfl
  case unusable => rfl
  case io =>
    simp only [State.regionWrite]
    split
    · rename_i r er
      by_cases hd : r = .dma
      · subst hd
        have c3 := (ioRegOf_address er).1 (by decide)
        simp only [IoReg.address] at c3
        rw [touches, if_neg (by omega), if_neg (by omega), if_pos c3] at h
        simp only [Bool.or_eq_false_iff, decide_eq_false_iff_not] at h
        by_cases hio : rb = .io
        · subst hio
          simp only [State.regionRead]
          cases eq : ioRegOf b with
          | none => rfl
          | some q =>
            refine State.ioRead_ioWrite s v (.inl fun e => h.1 ?_)
            subst e
            exact (ioRegOf_address eq).1 (by decide)
        · refine State.regionRead_ioWrite s a b v .dma rb hio (.inr fun e => h.2 ?_)
          subst e
          exact hb
      · by_cases hio : rb = .io
        · subst hio
          have hn : a.toNat ≠ 0xFF46 := fun e => hd (by
            have := ioRegOf_of_address (a := a) (r := .dma) (by decide) e
            rw [this] at er
            exact (Option.some.inj er).symm)
          have hne := touches_self_only (by omega) (by omega) hn h
          simp only [State.regionRead]
          cases eq : ioRegOf b with
          | none => rfl
          | some q =>
            refine State.ioRead_ioWrite s v ?_
            by_cases hqr : q = r
            · subst hqr
              refine .inr ⟨?_, hne⟩
              by_contra hap
              exact hne (ioRegOf_injective er eq hap)
            · exact .inl hqr
        · exact State.regionRead_ioWrite s a b v r rb hio (.inl hd)
    · rfl
  case hram =>
    have hne := touches_self_only (by omega) (by omega) (by omega) h
    cases rb
    case hram => exact Memory.read_write_other s.ram.hram (toNat_ne_of_ne hne) v
    all_goals rfl
  case ie =>
    have hne := touches_self_only (by omega) (by omega) (by omega) h
    cases rb <;> simp only [Region.low, Region.high] at hb
    case ie => exact absurd (BitVec.eq_of_toNat_eq (by omega)) hne
    all_goals rfl

/-- A byte of VRAM, work RAM (echo included), OAM, high RAM or IE reads back what was written (20_memory.md R87, R89). -/
theorem State.memRead_memWrite_same {s : State} (hs : s.Stored) {a : Word} (v : Byte)
    (h : (0x8000 ≤ a.toNat ∧ a.toNat < 0xA000) ∨ (0xC000 ≤ a.toNat ∧ a.toNat < 0xFEA0) ∨ 0xFF80 ≤ a.toNat) :
    (s.memWrite a v).memRead a = v := by
  have ha := regionOf_bounds (a := a) rfl
  unfold State.memWrite State.memRead
  generalize regionOf a = ra at *
  cases ra <;> simp only [Region.low, Region.high] at ha
  case vram => exact Memory.read_write_same (Memory.wfFrom_of_within hs.vram) _ v
  case wram => exact Memory.read_write_same (Memory.wfFrom_of_within hs.wram) _ v
  case echo => exact Memory.read_write_same (Memory.wfFrom_of_within hs.wram) _ v
  case oam => exact Memory.read_write_same (Memory.wfFrom_of_within hs.oam) _ v
  case hram => exact Memory.read_write_same (Memory.wfFrom_of_within hs.hram) _ v
  case ie => rfl
  all_goals omega

/-- The writes of a list leave the CPU and the outputs alone. -/
theorem State.storeAll_keeps (s : State) (ws : List (Word × Byte)) :
    (s.storeAll ws).cpu = s.cpu ∧ (s.storeAll ws).out = s.out ∧ (s.storeAll ws).cart = s.cart := by
  induction ws generalizing s with
  | nil => exact ⟨rfl, rfl, rfl⟩
  | cons w rest ih => simpa [State.storeAll] using ih (s.memWrite w.1 w.2)

/-- The writes of a list do not see the CPU or the outputs. -/
theorem State.storeAll_reframe (s : State) (c : Cpu) (o : StepOut) (ws : List (Word × Byte)) :
    (s.reframe c o).storeAll ws = (s.storeAll ws).reframe c o := by
  induction ws generalizing s with
  | nil => rfl
  | cons w rest ih => rw [State.storeAll, State.memWrite_reframe, ih, State.storeAll]

/-- An address that no write of a list touches reads as before. -/
theorem State.storeAll_frame (s : State) (ws : List (Word × Byte)) (b : Word)
    (h : ∀ w ∈ ws, touches w.1 b = false) : (s.storeAll ws).memRead b = s.memRead b := by
  induction ws generalizing s with
  | nil => rfl
  | cons w rest ih =>
    rw [State.storeAll, ih _ fun x hx => h x (List.mem_cons_of_mem _ hx)]
    exact State.memWrite_frame s w.2 (h w List.mem_cons_self)

end Sys2Proof.Machine
end

