-- ==== Sys2Proof/Laws/Exec.lean ====
section
/-! SUPPORT. What each shared operation of the meanings does, in the terms claims use, and how a meaning's equation gives a
`Completes` or `CompletesStoring` claim. -/

namespace Sys2Proof.Machine

/-! ### Operands -/

theorem State.reg_eq (s : State) (r : Reg8) : s.reg r = s.cpu.get r := by cases r <;> rfl

theorem State.pair_eq (s : State) (p : Pair) : s.pair p = s.cpu.pairValue p := by
  cases p <;> first | rfl | exact wordOf_eq_fromHalves _ _

theorem State.bc_eq (s : State) : s.bc = s.cpu.pairValue .bc := wordOf_eq_fromHalves _ _
theorem State.de_eq (s : State) : s.de = s.cpu.pairValue .de := wordOf_eq_fromHalves _ _
theorem State.hl_eq (s : State) : s.hl = s.addrHl := wordOf_eq_fromHalves _ _

theorem State.stackPair_eq (s : State) (p : StackPair) : s.stackPair p = s.cpu.stackValue p := by
  cases p <;> exact wordOf_eq_fromHalves _ _

theorem State.hlByte_eq (s : State) : s.hlByte = s.atHl := by rw [State.hlByte, State.hl_eq, State.atHl]

theorem State.popValue_eq (s : State) : s.popValue =
    fromHalves (s.memRead (BitVec.ofNat 16 (s.cpu.sp.toNat + 1))) (s.memRead s.cpu.sp) := by
  rw [State.popValue, State.memRead16, wordOf_eq_fromHalves, word_add_one]

/-! ### Register updates as a new CPU -/

theorem State.setReg_eq (s : State) (r : Reg8) (v : Byte) : s.setReg r v = s.reframe (s.cpu.put r v) s.out := by
  cases r <;> rfl

theorem State.setA_eq (s : State) (v : Byte) : s.setA v = s.reframe (s.cpu.put .a v) s.out := rfl
theorem State.setF_eq (s : State) (v : Byte) : s.setF v = s.reframe { s.cpu with f := v } s.out := rfl
theorem State.setSp_eq (s : State) (v : Word) : s.setSp v = s.reframe { s.cpu with sp := v } s.out := rfl
theorem State.setPc_eq (s : State) (v : Word) : s.setPc v = s.reframe { s.cpu with pc := v } s.out := rfl

theorem State.setHl_eq (s : State) (v : Word) : s.setHl v = s.reframe (s.cpu.putPair .hl v) s.out := by
  simp only [Cpu.putPair, ← hiByte_eq_highHalf, ← loByte_eq_lowHalf]
  rfl

theorem State.setPair_eq (s : State) (p : Pair) (v : Word) : s.setPair p v = s.reframe (s.cpu.putPair p v) s.out := by
  cases p <;> simp only [Cpu.putPair, ← hiByte_eq_highHalf, ← loByte_eq_lowHalf] <;> rfl

theorem State.setFlags_eq (s : State) (g : Flags) :
    s.setFlags g = s.reframe { s.cpu with f := flagByte g.z g.n g.h g.c } s.out := by
  rw [State.setFlags, toByte_eq_flagByte]
  rfl

theorem State.accumulate_eq (s : State) (x : Alu8) : s.accumulate x =
    s.reframe { s.cpu with a := x.value, f := flagByte x.flags.z x.flags.n x.flags.h x.flags.c } s.out := by
  rw [State.accumulate, State.setFlags_eq]
  rfl

theorem State.resultToReg_eq (s : State) (r : Reg8) (x : Alu8) : s.resultToReg r x =
    s.reframe { s.cpu.put r x.value with f := flagByte x.flags.z x.flags.n x.flags.h x.flags.c } s.out := by
  rw [State.resultToReg, State.setReg_eq, State.setFlags_eq]
  rfl

theorem State.rotateA_eq (s : State) (x : Alu8) : s.rotateA x =
    s.reframe { s.cpu with a := x.value, f := flagByte false false false x.flags.c } s.out := by
  rw [State.rotateA, State.setFlags_eq]
  rfl

/-! ### Stores -/

theorem State.setHlByte_eq (s : State) (v : Byte) : s.setHlByte v = s.memWrite s.addrHl v := by
  rw [State.setHlByte, State.hl_eq]

theorem State.memWrite_storeAll (s : State) (a : Word) (v : Byte) :
    s.memWrite a v = (s.storeAll [(a, v)]).reframe s.cpu s.out := by
  simp only [State.storeAll]
  conv_lhs => rw [← State.reframe_self s, State.memWrite_reframe]

theorem State.resultToHl_eq (s : State) (x : Alu8) : s.resultToHl x =
    (s.storeAll [(s.addrHl, x.value)]).reframe
      { s.cpu with f := flagByte x.flags.z x.flags.n x.flags.h x.flags.c } s.out := by
  rw [State.resultToHl, State.setHlByte_eq, State.memWrite_storeAll, State.setFlags_eq]
  rfl

theorem State.memWrite16_eq (s : State) (a v : Word) : s.memWrite16 a v =
    (s.storeAll [(a, lowHalf v), (BitVec.ofNat 16 (a.toNat + 1), highHalf v)]).reframe s.cpu s.out := by
  rw [State.memWrite16, loByte_eq_lowHalf, hiByte_eq_highHalf, word_add_one]
  simp only [State.storeAll]
  conv_lhs => rw [← State.reframe_self s, State.memWrite_reframe, State.memWrite_reframe]

/-- Everything a push does (00_scope.md R9). -/
theorem State.push16_eq (s : State) (v : Word) : s.push16 v =
    (s.storeAll [(s.cpu.sp - 1, highHalf v), (s.cpu.sp - 2, lowHalf v)]).reframe
      { s.cpu with sp := s.cpu.sp - 2 } s.out := by
  simp only [State.push16, State.setSp_eq, State.memWrite_reframe, State.storeAll, hiByte_eq_highHalf, loByte_eq_lowHalf,
    State.reframe_reframe, State.reframe_cpu, State.reframe_out]

/-- Everything a call does (45_control.md R345, R350). -/
theorem State.call_eq (s : State) (target : Word) : s.call target =
    (s.storeAll [(s.cpu.sp - 1, highHalf s.cpu.pc), (s.cpu.sp - 2, lowHalf s.cpu.pc)]).reframe
      { s.cpu with sp := s.cpu.sp - 2, pc := target } s.out := by
  rw [State.call, State.push16_eq, State.setPc_eq]
  rfl

/-- Everything a return does (45_control.md R347). -/
theorem State.return_eq (s : State) : s.return =
    s.reframe
      { s.cpu with
        pc := fromHalves (s.memRead (BitVec.ofNat 16 (s.cpu.sp.toNat + 1))) (s.memRead s.cpu.sp)
        sp := BitVec.ofNat 16 (s.cpu.sp.toNat + 2) } s.out := by
  rw [State.return, State.popValue_eq, State.popDrop, word_add_two]
  rfl

/-- Everything taking interrupt `k` does (60_exceptions.md R405). -/
theorem State.takeInterrupt_eq (s : State) (k : Nat) : s.takeInterrupt k =
    (({ s with irq := { s.irq with iflag := s.irq.iflag &&& ~~~bitMask k } } : State).storeAll
      [(s.cpu.sp - 1, highHalf s.cpu.pc), (s.cpu.sp - 2, lowHalf s.cpu.pc)]).reframe
      { s.cpu with pc := vectorOf k, sp := s.cpu.sp - 2, ime := false, imePending := false, halted := false } s.out := by
  let s0 : State := { s with irq := { s.irq with iflag := s.irq.iflag &&& ~~~bitMask k } }
  have e : s.takeInterrupt k =
      ((s0.reframe { s.cpu with ime := false, imePending := false, halted := false } s.out).push16 s.cpu.pc).setPc
        (vectorOf k) := rfl
  rw [e, State.push16_eq, State.storeAll_reframe, State.setPc_eq]
  rfl

/-! ### From a meaning's equation to a claim -/

theorem finish_reframe (n : Nat) (s : State) (c : Cpu) (o : StepOut) :
    finish n (s.reframe c o) = .next (s.reframe c { o with cycles := n }) := rfl

theorem completes_of_exec {i : Instr} {bytes : List Byte} {s : State} {n : Nat} {v : Cpu} (enc : encode i = bytes)
    (len : i.length = bytes.length) (run : exec i s = .next (s.reframe v { s.out with cycles := n })) :
    Completes i bytes s n v :=
  ⟨enc, len, _, run, rfl, rfl, ⟨rfl, rfl, rfl, rfl, rfl, rfl, rfl, rfl, rfl, rfl, rfl⟩, fun a => s.reframe_memRead v _ a⟩

theorem completesStoring_of_exec {i : Instr} {bytes : List Byte} {s : State} {n : Nat} {v : Cpu}
    {stores : List (Word × Byte)} (enc : encode i = bytes) (len : i.length = bytes.length)
    (run : exec i s = .next ((s.storeAll stores).reframe v { s.out with cycles := n })) :
    CompletesStoring i bytes s n v stores := by
  refine ⟨enc, len, _, run, rfl, rfl, ?_, fun b hb => ?_⟩
  · have h := (s.storeAll_keeps stores).2.1
    exact ⟨rfl, rfl, rfl, rfl, rfl, rfl, rfl, rfl, rfl, by rw [h]; rfl, by rw [h]; rfl⟩
  · rw [State.reframe_memRead]
    exact s.storeAll_frame stores b hb

end Sys2Proof.Machine
end

