-- ==== Sys2Proof/Laws/Devices.lean ====
section
/-! SUPPORT. What the devices can change when they are clocked, and how the LCD controller's position moves. -/

namespace Sys2Proof.Machine

/-! ### Shapes: which fields a tick can change -/

/-- `t` differs from `s` at most in the LCD controller, IF and the delivered scanlines. -/
def LcdShape (s t : State) : Prop :=
  t = { s with
    lcd := t.lcd, irq := { s.irq with iflag := t.irq.iflag }, out := { s.out with scanlines := t.out.scanlines } }

theorem LcdShape.trans {s t u : State} (h : LcdShape s t) (k : LcdShape t u) : LcdShape s u := by
  unfold LcdShape at *
  rw [k, h]

theorem State.request_shape (s : State) (k : Nat) : LcdShape s (s.request k) := rfl
theorem State.setMode_shape (s : State) (m : BitVec 2) : LcdShape s (s.setMode m) := rfl
theorem State.deliverScanline_shape (s : State) : LcdShape s s.deliverScanline := rfl

theorem State.statRequest_shape (s : State) (n : Nat) : LcdShape s (s.statRequest n) := by
  unfold State.statRequest
  split <;> rfl

theorem State.lineCompare_shape (s : State) : LcdShape s s.lineCompare := by
  unfold State.lineCompare
  split
  · dsimp only
    split <;> rfl
  · rfl

theorem State.newLine_shape (s : State) : LcdShape s s.newLine := by
  unfold State.newLine
  dsimp only
  split
  · refine LcdShape.trans (s := s) ?_ (State.lineCompare_shape _)
    refine LcdShape.trans (s := s) ?_ (State.statRequest_shape _ 4)
    rfl
  · split
    · refine LcdShape.trans (s := s) ?_ (State.lineCompare_shape _)
      rfl
    · rfl

theorem State.midLine_shape (s : State) : LcdShape s s.midLine := by
  unfold State.midLine
  split
  · split
    · rfl
    · split
      · refine LcdShape.trans (s := s) ?_ (State.statRequest_shape _ 3)
        rfl
      · rfl
  · rfl

/-- One LCD clock changes the LCD controller, IF and the deliveries only (60_exceptions.md R443). -/
theorem State.lcdTick_shape (s : State) : LcdShape s s.lcdTick := by
  unfold State.lcdTick
  split
  · exact State.newLine_shape s
  · refine LcdShape.trans (s := s) ?_ (State.midLine_shape _)
    rfl

theorem State.lcdClock_shape (n : Nat) (s : State) : LcdShape s (State.lcdClock n s) := by
  induction n generalizing s with
  | zero => rfl
  | succ n ih => exact LcdShape.trans (State.lcdTick_shape s) (ih _)

/-- Clocks add up (60_exceptions.md R448). -/
theorem State.lcdClock_add (n m : Nat) (s : State) :
    State.lcdClock m (State.lcdClock n s) = State.lcdClock (n + m) s := by
  induction n generalizing s with
  | zero => rw [Nat.zero_add]; rfl
  | succ n ih => rw [Nat.succ_add]; exact ih _

/-! ### Timer -/

/-- `t` differs from `s` at most in the timer and IF. -/
def TimerShape (s t : State) : Prop := t = { s with timer := t.timer, irq := { s.irq with iflag := t.irq.iflag } }

theorem TimerShape.trans {s t u : State} (h : TimerShape s t) (k : TimerShape t u) : TimerShape s u := by
  unfold TimerShape at *
  rw [k, h]

theorem State.timaIncrement_shape (s : State) : TimerShape s s.timaIncrement := by
  unfold State.timaIncrement
  split <;> rfl

theorem State.timaIncrements_shape (k : Nat) (s : State) : TimerShape s (State.timaIncrements k s) := by
  induction k generalizing s with
  | zero => rfl
  | succ k ih => exact TimerShape.trans (State.timaIncrement_shape s) (ih _)

theorem State.timerTick_shape (n : Nat) (s : State) : TimerShape s (State.timerTick n s) := by
  unfold State.timerTick State.timaTick
  split
  · refine TimerShape.trans (s := s) ?_ (State.timaIncrements_shape _ _)
    rfl
  · rfl

/-- An increment of TIMA changes no other timer register and no counter. -/
theorem State.timaIncrement_timer (s : State) :
    s.timaIncrement.timer = { s.timer with tima := s.timaIncrement.timer.tima } := by
  unfold State.timaIncrement
  split <;> rfl

theorem State.timaIncrements_timer (k : Nat) (s : State) :
    (State.timaIncrements k s).timer = { s.timer with tima := (State.timaIncrements k s).timer.tima } := by
  induction k generalizing s with
  | zero => rfl
  | succ k ih =>
    rw [State.timaIncrements, ih, State.timaIncrement_timer]

theorem State.timaIncrements_add (j k : Nat) (s : State) :
    State.timaIncrements k (State.timaIncrements j s) = State.timaIncrements (j + k) s := by
  induction j generalizing s with
  | zero => rw [Nat.zero_add]; rfl
  | succ j ih => rw [Nat.succ_add]; exact ih _

theorem timerPeriod_bounds (tac : Byte) : 16 ≤ timerPeriod tac ∧ timerPeriod tac ≤ 1024 := by
  unfold timerPeriod
  split <;> omega

/-- The hidden counters stay below their limits (60_exceptions.md R430). -/
theorem State.timerTick_counters (n : Nat) {s : State} (h : s.timer.timaCount < 1024) :
    (State.timerTick n s).timer.divCount < 256 ∧ (State.timerTick n s).timer.timaCount < 1024 := by
  unfold State.timerTick State.timaTick
  split
  · have hp := timerPeriod_bounds s.timer.tac
    rw [State.timaIncrements_timer]
    refine ⟨Nat.mod_lt _ (by decide), ?_⟩
    exact Nat.lt_of_lt_of_le (Nat.mod_lt _ (show 0 < timerPeriod s.timer.tac by omega)) hp.2
  · exact ⟨Nat.mod_lt _ (by decide), h⟩

/-! ### The whole clock -/

/-- Clocking the devices leaves the CPU, memory, mapper, joypad, link, the APU's registers and IE alone
(10_state.md R35; 60_exceptions.md R449, R455). -/
theorem State.clockDevices_shape (n : Nat) (s : State) :
    State.clockDevices n s =
      { s with
        lcd := (State.lcdClock n s).lcd
        timer := (State.clockDevices n s).timer
        irq := { s.irq with iflag := (State.clockDevices n s).irq.iflag }
        apu := { s.apu with internal := (Config.apuTick n s.apu.internal).1 }
        out :=
          { s.out with
            scanlines := (State.lcdClock n s).out.scanlines
            audio := s.out.audio ++ (Config.apuTick n s.apu.internal).2 } } := by
  have hl := State.lcdClock_shape n s
  have ht := State.timerTick_shape n (State.lcdClock n s)
  unfold LcdShape at hl
  unfold TimerShape at ht
  unfold State.clockDevices State.apuTick
  generalize State.timerTick n (State.lcdClock n s) = t at *
  generalize State.lcdClock n s = l at *
  rw [ht, hl]

/-! ### The position of the LCD controller -/

theorem and_fc_or_mode (x : Byte) (m : BitVec 2) : ((x &&& 0xFC) ||| m.zeroExtend 8).extractLsb' 0 2 = m := by
  revert x m; decide

/-- What `LcdTick` does to the line, the position and the mode (60_exceptions.md R443). -/
theorem State.lcdTick_position (s : State) :
    (s.lcdTick.lcd.lineCount = if s.lcd.lineCount + 1 = 456 then 0 else s.lcd.lineCount + 1) ∧
    (s.lcdTick.lcd.ly =
      if s.lcd.lineCount + 1 = 456 then BitVec.ofNat 8 ((s.lcd.ly.toNat + 1) % 154) else s.lcd.ly) := by
  have compare : ∀ t : State, t.lineCompare.lcd.lineCount = t.lcd.lineCount ∧ t.lineCompare.lcd.ly = t.lcd.ly := by
    intro t
    unfold State.lineCompare
    split
    · dsimp only
      split <;> exact ⟨rfl, rfl⟩
    · exact ⟨rfl, rfl⟩
  have request : ∀ (t : State) (k : Nat), (t.statRequest k).lcd = t.lcd := by
    intro t k
    unfold State.statRequest
    split <;> rfl
  unfold State.lcdTick
  split
  · unfold State.newLine
    dsimp only
    split
    · rw [(compare _).1, (compare _).2, request]
      exact ⟨rfl, rfl⟩
    · split
      · rw [(compare _).1, (compare _).2]
        exact ⟨rfl, rfl⟩
      · exact ⟨rfl, rfl⟩
  · unfold State.midLine
    split
    · split
      · exact ⟨rfl, rfl⟩
      · split
        · rw [request]
          exact ⟨rfl, rfl⟩
        · exact ⟨rfl, rfl⟩
    · exact ⟨rfl, rfl⟩

/-- The low two bits of STAT after a line compare are those before: it writes bit 2 only (60_exceptions.md R444, R446). -/
theorem State.lineCompare_mode (s : State) :
    s.lineCompare.lcd.stat.extractLsb' 0 2 = s.lcd.stat.extractLsb' 0 2 := by
  have h1 : ∀ x : Byte, (x ||| 0x04).extractLsb' 0 2 = x.extractLsb' 0 2 := by decide
  have h2 : ∀ x : Byte, (x &&& ~~~(0x04 : Byte)).extractLsb' 0 2 = x.extractLsb' 0 2 := by decide
  unfold State.lineCompare
  split
  · dsimp only
    split <;> exact h1 _
  · exact h2 _

/-- One clock keeps the LCD controller on the timing table (60_exceptions.md R442). -/
theorem State.lcdTick_synced {s : State} (h : s.lcd.Synced) : s.lcdTick.lcd.Synced := by
  have hp := State.lcdTick_position s
  have hline := h.line
  have hpos := h.position
  have hmode := h.mode
  have request : ∀ (t : State) (k : Nat), (t.statRequest k).lcd = t.lcd := by
    intro t k
    unfold State.statRequest
    split <;> rfl
  by_cases hc : s.lcd.lineCount + 1 = 456
  · rw [if_pos hc, if_pos hc] at hp
    have hly : s.lcdTick.lcd.ly.toNat = (s.lcd.ly.toNat + 1) % 154 := by
      rw [hp.2, BitVec.toNat_ofNat]
      omega
    refine ⟨by omega, by omega, ?_⟩
    rw [hly, hp.1]
    unfold State.lcdTick
    rw [if_pos hc]
    unfold State.newLine
    have e : (BitVec.ofNat 8 ((s.lcd.ly.toNat + 1) % 154)).toNat = (s.lcd.ly.toNat + 1) % 154 := by
      rw [BitVec.toNat_ofNat]
      omega
    dsimp only
    rw [e]
    split
    · rw [State.lineCompare_mode, request]
      simp only [modeAt, State.request_lcd, State.setMode_lcd, and_fc_or_mode]
      rw [if_pos (by omega)]
    · split
      · rw [State.lineCompare_mode]
        simp only [modeAt, State.setMode_lcd, and_fc_or_mode]
        rw [if_neg (by omega), if_pos (by omega)]
      · rw [modeAt, if_pos (by omega)]
        rw [modeAt, if_pos (by omega)] at hmode
        exact hmode
  · rw [if_neg hc, if_neg hc] at hp
    refine ⟨by rw [hp.2]; exact hline, by omega, ?_⟩
    rw [hp.1, hp.2]
    unfold State.lcdTick
    rw [if_neg hc]
    unfold State.midLine
    dsimp only
    split
    · split
      · simp only [State.setMode_lcd, and_fc_or_mode, modeAt]
        rw [if_neg (by omega), if_neg (by omega), if_pos (by omega)]
      · split
        · rw [request]
          simp only [State.deliverScanline_lcd, State.setMode_lcd, and_fc_or_mode, modeAt]
          rw [if_neg (by omega), if_neg (by omega), if_neg (by omega)]
        · dsimp only
          rw [hmode]
          unfold modeAt
          split_ifs <;> first | rfl | omega
    · dsimp only
      rw [hmode, modeAt, modeAt, if_pos (by omega), if_pos (by omega)]

theorem State.lcdClock_synced (n : Nat) {s : State} (h : s.lcd.Synced) : (State.lcdClock n s).lcd.Synced := by
  induction n generalizing s with
  | zero => exact h
  | succ n ih => exact ih (State.lcdTick_synced h)

/-- `n` clocks move the position in the 70224-cycle frame by `n` (60_exceptions.md R442, R443). -/
theorem State.lcdClock_position (n : Nat) {s : State} (h : s.lcd.Synced) :
    456 * (State.lcdClock n s).lcd.ly.toNat + (State.lcdClock n s).lcd.lineCount =
      (456 * s.lcd.ly.toNat + s.lcd.lineCount + n) % 70224 := by
  induction n generalizing s with
  | zero =>
    have h1 := h.line
    have h2 := h.position
    simp only [State.lcdClock]
    omega
  | succ n ih =>
    have h1 := h.line
    have h2 := h.position
    have hp := State.lcdTick_position s
    rw [State.lcdClock, ih (State.lcdTick_synced h), hp.1, hp.2]
    split
    · rw [BitVec.toNat_ofNat]
      omega
    · omega

/-! ### The devices do not look at the CPU or at what was delivered -/

theorem State.statRequest_reframe (s : State) (n : Nat) (c : Cpu) (o : StepOut) :
    (s.reframe c o).statRequest n = (s.statRequest n).reframe c o := by
  unfold State.statRequest
  rw [State.reframe_lcd]
  split <;> rfl

theorem State.lineCompare_reframe (s : State) (c : Cpu) (o : StepOut) :
    (s.reframe c o).lineCompare = s.lineCompare.reframe c o := by
  unfold State.lineCompare
  rw [State.reframe_lcd]
  split
  · dsimp only
    split <;> rfl
  · rfl

theorem State.newLine_reframe (s : State) (c : Cpu) (o : StepOut) :
    (s.reframe c o).newLine = s.newLine.reframe c o := by
  unfold State.newLine
  dsimp only [State.reframe_lcd]
  split
  · rw [← State.lineCompare_reframe, ← State.statRequest_reframe]
    rfl
  · split
    · rw [← State.lineCompare_reframe]
      rfl
    · rfl

theorem State.deliverScanline_reframe (s : State) (c : Cpu) (o : StepOut) :
    (s.reframe c o).deliverScanline = s.deliverScanline.reframe c
      { o with scanlines := o.scanlines ++ [{ line := s.lcd.ly, pixels := Config.renderLine s.renderInput }] } := rfl

/-- One LCD clock under another CPU and other deliveries: the same registers, and one more delivery behind those. -/
theorem State.lcdTick_reframe (s : State) (c : Cpu) (o : StepOut) :
    ∃ p : StepOut, p.cycles = o.cycles ∧ (s.reframe c o).lcdTick = s.lcdTick.reframe c p := by
  unfold State.lcdTick
  rw [State.reframe_lcd]
  split
  · exact ⟨o, rfl, State.newLine_reframe s c o⟩
  · unfold State.midLine
    dsimp only [State.reframe_lcd]
    split
    · split
      · exact ⟨o, rfl, rfl⟩
      · split
        · let drawn := ({ s with lcd := { s.lcd with lineCount := s.lcd.lineCount + 1 } } : State).setMode 0
          exact ⟨_, by rfl, (congrArg (State.statRequest · 3) (State.deliverScanline_reframe drawn c o)).trans
            (State.statRequest_reframe drawn.deliverScanline 3 c _)⟩
        · exact ⟨o, rfl, rfl⟩
    · exact ⟨o, rfl, rfl⟩

theorem State.lcdClock_reframe (n : Nat) (s : State) (c : Cpu) (o : StepOut) :
    ∃ p : StepOut, p.cycles = o.cycles ∧ State.lcdClock n (s.reframe c o) = (State.lcdClock n s).reframe c p := by
  induction n generalizing s o with
  | zero => exact ⟨o, rfl, rfl⟩
  | succ n ih =>
    obtain ⟨p, hp, e⟩ := State.lcdTick_reframe s c o
    obtain ⟨q, hq, e'⟩ := ih s.lcdTick p
    exact ⟨q, hq.trans hp, by rw [State.lcdClock, e, e']; rfl⟩

theorem State.timaIncrements_reframe (k : Nat) (s : State) (c : Cpu) (o : StepOut) :
    State.timaIncrements k (s.reframe c o) = (State.timaIncrements k s).reframe c o := by
  induction k generalizing s with
  | zero => rfl
  | succ k ih =>
    have one : (s.reframe c o).timaIncrement = s.timaIncrement.reframe c o := by
      unfold State.timaIncrement
      rw [State.reframe_timer]
      split <;> rfl
    rw [State.timaIncrements, one, ih]
    rfl

theorem State.timerTick_reframe (n : Nat) (s : State) (c : Cpu) (o : StepOut) :
    State.timerTick n (s.reframe c o) = (State.timerTick n s).reframe c o := by
  unfold State.timerTick State.timaTick
  have e : (State.divTick n (s.reframe c o)).timer = (State.divTick n s).timer := rfl
  rw [e]
  split
  · exact State.timaIncrements_reframe _ { State.divTick n s with timer := _ } c o
  · rfl

/-- Clocking the devices under another CPU and other deliveries (60_exceptions.md R400). -/
theorem State.clockDevices_reframe (n : Nat) (s : State) (c : Cpu) (o : StepOut) :
    ∃ p : StepOut, p.cycles = o.cycles ∧
      State.clockDevices n (s.reframe c o) = (State.clockDevices n s).reframe c p := by
  obtain ⟨p, hp, e⟩ := State.lcdClock_reframe n s c o
  unfold State.clockDevices
  rw [e, State.timerTick_reframe]
  exact ⟨{ p with audio := p.audio ++ (Config.apuTick n (State.timerTick n (State.lcdClock n s)).apu.internal).2 }, hp, rfl⟩

end Sys2Proof.Machine
end

