-- ==== Sys2Proof/Laws/Facade.lean ====
section
/-! SUPPORT. What the host operations do to `faulted`, and a restore into a machine that has not faulted. -/

namespace Sys2Proof.Machine

/-- A restore keeps a fault (10_state.md R31). -/
@[simp] theorem State.deserialize_faulted (s : State) (d : Snapshot) :
    (s.deserialize d).cpu.faulted = (s.cpu.faulted || d.cpu.faulted) := rfl

/-- Where it clears no fault, a restore brings back the whole state but the deliveries (70_reset_and_hazards.md R517). -/
theorem State.deserialize_serialize {s later : State} (cart : later.cart = s.cart)
    (h : later.cpu.faulted = false ∨ s.cpu.faulted = true) : later.deserialize s.serialize = s.beginStep := by
  have hf : (later.cpu.faulted || s.cpu.faulted) = s.cpu.faulted := by
    rcases h with h | h <;> simp [h]
  simp only [State.deserialize, State.serialize, State.beginStep, cart, hf]

/-- A key event leaves `faulted` as it is (60_exceptions.md R462). -/
@[simp] theorem State.input_faulted (s : State) (key : Key) (pressed : Bool) :
    (s.input key pressed).cpu.faulted = s.cpu.faulted := by
  unfold State.input
  split
  · split <;> rfl
  · rfl

/-- A host memory write changes no CPU register (20_memory.md R115). -/
@[simp] theorem State.writeMemory_cpu (s : State) (addr value : Nat) : (s.writeMemory addr value).cpu = s.cpu :=
  State.memWrite_cpu s _ _

/-- A reset clears the fault (10_state.md R31). -/
@[simp] theorem State.hostReset_faulted (s : State) : s.hostReset.cpu.faulted = false := rfl

end Sys2Proof.Machine
end

