-- ==== Sys2Proof/Laws/Inversion.lean ====
section
/-! SUPPORT. What any instruction, and any step, can do: the inversion lemmas that invariants and whole-machine rules cite. -/

namespace Sys2Proof.Machine

/-! ### Register updates leave the control part of the CPU alone -/

/-- The parts of the CPU that only control instructions and dispatch write. -/
structure SameControl (c d : Cpu) : Prop where
  ime : d.ime = c.ime
  imePending : d.imePending = c.imePending
  halted : d.halted = c.halted
  stopped : d.stopped = c.stopped
  faulted : d.faulted = c.faulted

theorem SameControl.refl (c : Cpu) : SameControl c c := ⟨rfl, rfl, rfl, rfl, rfl⟩

theorem Cpu.put_keeps (c : Cpu) (r : Reg8) (v : Byte) :
    SameControl c (c.put r v) ∧ (c.put r v).f = c.f ∧ (c.put r v).pc = c.pc ∧ (c.put r v).sp = c.sp := by
  cases r <;> exact ⟨⟨rfl, rfl, rfl, rfl, rfl⟩, rfl, rfl, rfl⟩

theorem Cpu.putPair_keeps (c : Cpu) (p : Pair) (v : Word) :
    SameControl c (c.putPair p v) ∧ (c.putPair p v).f = c.f ∧ (c.putPair p v).pc = c.pc := by
  cases p <;> exact ⟨⟨rfl, rfl, rfl, rfl, rfl⟩, rfl, rfl⟩

/-! ### Any instruction -/

/-- What a completed instruction can have done: some memory writes, a new CPU, a cycle count; nothing else. -/
structure ExecEffect (i : Instr) (s t : State) : Prop where
  writes : ∃ ws n, t = (s.storeAll ws).reframe t.cpu { s.out with cycles := n } ∧ n % 4 = 0 ∧ 4 ≤ n ∧ n ≤ 24
  flags : s.cpu.f.extractLsb' 0 4 = 0 → t.cpu.f.extractLsb' 0 4 = 0
  faulted : t.cpu.faulted = s.cpu.faulted
  halted : t.cpu.halted = s.cpu.halted ∨ (i = .halt ∧ t.cpu.halted = true)
  stopped : t.cpu.stopped = s.cpu.stopped ∨ ((∃ pad, i = .stop pad) ∧ t.cpu.stopped = true)
  ime : t.cpu.ime = s.cpu.ime ∨ (i = .reti ∧ t.cpu.ime = true) ∨ (i = .di ∧ t.cpu.ime = false)
  imePending : t.cpu.imePending = s.cpu.imePending ∨ (i = .ei ∧ t.cpu.imePending = true) ∨
    (i = .di ∧ t.cpu.imePending = false)

theorem execEffect_of_control {i : Instr} {s t : State} (ws : List (Word × Byte)) (c : Cpu) (n : Nat)
    (run : exec i s = .next ((s.storeAll ws).reframe c { s.out with cycles := n })) (h : exec i s = .next t)
    (count : n % 4 = 0 ∧ 4 ≤ n ∧ n ≤ 24) (flags : c.f = s.cpu.f ∨ ∃ z m k l, c.f = flagByte z m k l)
    (control : SameControl s.cpu c) : ExecEffect i s t := by
  rw [run] at h
  cases h
  refine ⟨⟨ws, n, rfl, count⟩, fun hf => ?_, control.faulted, .inl control.halted, .inl control.stopped, .inl control.ime,
    .inl control.imePending⟩
  rcases flags with e | ⟨z, m, k, l, e⟩
  · rw [State.reframe_cpu, e, hf]
  · rw [State.reframe_cpu, e, flagByte_low]

theorem SameControl.ofPut (c : Cpu) (r : Reg8) (v : Byte) : SameControl c (c.put r v) := (c.put_keeps r v).1
theorem SameControl.putF (c : Cpu) (r : Reg8) (v x : Byte) : SameControl c { c.put r v with f := x } := by
  cases r <;> exact ⟨rfl, rfl, rfl, rfl, rfl⟩
theorem SameControl.ofPutPair (c : Cpu) (p : Pair) (v : Word) : SameControl c (c.putPair p v) := (c.putPair_keeps p v).1

theorem State.setStackPair_eq (s : State) (p : StackPair) (v : Word) :
    ∃ c : Cpu, s.setStackPair p v = s.reframe c s.out ∧ SameControl s.cpu c ∧
      (c.f = s.cpu.f ∨ ∃ z m k l, c.f = flagByte z m k l) := by
  cases p
  case af => exact ⟨_, rfl, ⟨rfl, rfl, rfl, rfl, rfl⟩, .inr ⟨_, _, _, _, and_f0_eq_flagByte (loByte v)⟩⟩
  all_goals exact ⟨_, rfl, ⟨rfl, rfl, rfl, rfl, rfl⟩, .inl rfl⟩

/-- Everything a completed instruction can do, for every instruction. -/
theorem exec_next {i : Instr} {s t : State} (h : exec i s = .next t) : ExecEffect i s t := by
  have same : SameControl s.cpu s.cpu := SameControl.refl _
  cases i
  -- stops
  case illegalD3 | illegalDB | illegalDD | illegalE3 | illegalE4 | illegalEB | illegalEC | illegalED | illegalF4
    | illegalFC | illegalFD => cases h
  -- control of the CPU
  case halt => cases h; exact ⟨⟨[], 4, rfl, by omega⟩, id, rfl, .inr ⟨rfl, rfl⟩, .inl rfl, .inl rfl, .inl rfl⟩
  case stop pad =>
    cases h
    exact ⟨⟨[], 4, rfl, by omega⟩, id, rfl, .inl rfl, .inr ⟨⟨pad, rfl⟩, rfl⟩, .inl rfl, .inl rfl⟩
  case di =>
    cases h
    exact ⟨⟨[], 4, rfl, by omega⟩, id, rfl, .inl rfl, .inl rfl, .inr (.inr ⟨rfl, rfl⟩), .inr (.inr ⟨rfl, rfl⟩)⟩
  case ei => cases h; exact ⟨⟨[], 4, rfl, by omega⟩, id, rfl, .inl rfl, .inl rfl, .inl rfl, .inr (.inl ⟨rfl, rfl⟩)⟩
  case reti => cases h; exact ⟨⟨[], 16, rfl, by omega⟩, id, rfl, .inl rfl, .inl rfl, .inr (.inl ⟨rfl, rfl⟩), .inl rfl⟩
  -- a register destination
  case ldRR | ldRHl | ldRD8 | resR | setR =>
    exact execEffect_of_control [] _ _ (by
      simp only [exec, execLdRR, execLdRHl, execLdRD8, execResR, execSetR, State.setReg_eq]
      rfl) h (by omega) (.inl (Cpu.put_keeps _ _ _).2.1) (.ofPut _ _ _)
  case ldRrD16 | incRr | decRr =>
    exact execEffect_of_control [] _ _ (by
      simp only [exec, execLdRrD16, execIncRr, execDecRr, State.setPair_eq]
      rfl) h (by omega) (.inl (Cpu.putPair_keeps _ _ _).2.1) (.ofPutPair _ _ _)
  -- a register destination and flags
  case incR | decR | rlcR | rrcR | rlR | rrR | slaR | sraR | swapR | srlR =>
    exact execEffect_of_control [] _ _ (by
      simp only [exec, execIncR, execDecR, execRlcR, execRrcR, execRlR, execRrR, execSlaR, execSraR, execSwapR, execSrlR,
        State.resultToReg_eq]
      rfl) h (by omega) (by exact .inr ⟨_, _, _, _, rfl⟩) (.putF _ _ _ _)
  -- A and flags, or flags alone
  case addAR | addAHl | addAD8 | adcAR | adcAHl | adcAD8 | subAR | subAHl | subAD8 | sbcAR | sbcAHl | sbcAD8 | andAR | andAHl
    | andAD8 | xorAR | xorAHl | xorAD8 | orAR | orAHl | orAD8 | daa =>
    exact execEffect_of_control [] _ _ (by
      simp only [exec, execAddAR, execAddAHl, execAddAD8, execAdcAR, execAdcAHl, execAdcAD8, execSubAR, execSubAHl, execSubAD8,
        execSbcAR, execSbcAHl, execSbcAD8, execAndAR, execAndAHl, execAndAD8, execXorAR, execXorAHl, execXorAD8, execOrAR,
        execOrAHl, execOrAD8, execDaa, State.accumulate_eq]
      rfl) h (by omega) (by exact .inr ⟨_, _, _, _, rfl⟩) (by exact ⟨rfl, rfl, rfl, rfl, rfl⟩)
  case cpAR | cpAHl | cpAD8 | scf | ccf | cpl | bitR | bitHl =>
    exact execEffect_of_control [] _ _ (by
      simp only [exec, execCpAR, execCpAHl, execCpAD8, execScf, execCcf, execCpl, execBitR, execBitHl, State.setFlags_eq]
      rfl) h (by omega) (by exact .inr ⟨_, _, _, _, rfl⟩) (by exact ⟨rfl, rfl, rfl, rfl, rfl⟩)
  case rlca | rrca | rla | rra =>
    exact execEffect_of_control [] _ _ (by
      simp only [exec, execRlca, execRrca, execRla, execRra, State.rotateA_eq]
      rfl) h (by omega) (by exact .inr ⟨_, _, _, _, rfl⟩) (by exact ⟨rfl, rfl, rfl, rfl, rfl⟩)
  case addHlRr | addSpE8 | ldHlSpE8 =>
    exact execEffect_of_control [] _ _ (by
      simp only [exec, execAddHlRr, execAddSpE8, execLdHlSpE8, State.setFlags_eq]
      rfl) h (by omega) (by exact .inr ⟨_, _, _, _, rfl⟩) (by exact ⟨rfl, rfl, rfl, rfl, rfl⟩)
  -- pops
  case popRr p =>
    obtain ⟨c, e, hc, hf⟩ := State.setStackPair_eq s.popDrop p s.popValue
    exact execEffect_of_control [] c 12 (by simp only [exec, execPopRr, e]; rfl) h (by omega) hf
      ⟨hc.ime, hc.imePending, hc.halted, hc.stopped, hc.faulted⟩
  case popAf =>
    obtain ⟨c, e, hc, hf⟩ := State.setStackPair_eq s.popDrop .af s.popValue
    exact execEffect_of_control [] c 12 (by simp only [exec, execPopAf, e]; rfl) h (by omega) hf
      ⟨hc.ime, hc.imePending, hc.halted, hc.stopped, hc.faulted⟩
  -- stores
  case ldHlR | ldHlD8 | ldBcA | ldDeA | ldHlIncA | ldHlDecA | ldhA8A | ldCA | ldA16A | resHl | setHl =>
    exact execEffect_of_control [_] _ _ (by
      simp only [exec, execLdHlR, execLdHlD8, execLdBcA, execLdDeA, execLdHlIncA, execLdHlDecA, execLdhA8A, execLdCA,
        execLdA16A, execResHl, execSetHl, State.setHlByte_eq, State.memWrite_storeAll]
      rfl) h (by omega) (by exact .inl rfl) (by exact ⟨rfl, rfl, rfl, rfl, rfl⟩)
  case incHl | decHl | rlcHl | rrcHl | rlHl | rrHl | slaHl | sraHl | swapHl | srlHl =>
    exact execEffect_of_control [_] _ _ (by
      simp only [exec, execIncHl, execDecHl, execRlcHl, execRrcHl, execRlHl, execRrHl, execSlaHl, execSraHl, execSwapHl,
        execSrlHl, State.resultToHl_eq]
      rfl) h (by omega) (by exact .inr ⟨_, _, _, _, rfl⟩) (by exact ⟨rfl, rfl, rfl, rfl, rfl⟩)
  case ldA16Sp =>
    exact execEffect_of_control [_, _] _ _ (by
      simp only [exec, execLdA16Sp, State.memWrite16_eq]
      rfl) h (by omega) (by exact .inl rfl) same
  case pushRr =>
    exact execEffect_of_control [_, _] _ _ (by
      simp only [exec, execPushRr, State.push16_eq]
      rfl) h (by omega) (by exact .inl rfl) (by exact ⟨rfl, rfl, rfl, rfl, rfl⟩)
  case callA16 =>
    exact execEffect_of_control [_, _] _ _ (by
      simp only [exec, execCallA16, State.call_eq]
      rfl) h (by omega) (by exact .inl rfl) (by exact ⟨rfl, rfl, rfl, rfl, rfl⟩)
  case rstT =>
    exact execEffect_of_control [_, _] _ _ (by
      simp only [exec, execRstT, State.call_eq]
      rfl) h (by omega) (by exact .inl rfl) (by exact ⟨rfl, rfl, rfl, rfl, rfl⟩)
  -- conditional transfers
  case callCcA16 k w =>
    by_cases hk : s.cond k = true
    · exact execEffect_of_control [_, _] _ _ (by
        simp only [exec, execCallCcA16, hk, if_true, State.call_eq]
        rfl) h (by omega) (by exact .inl rfl) (by exact ⟨rfl, rfl, rfl, rfl, rfl⟩)
    · exact execEffect_of_control [] s.cpu 12 (by
        simp only [exec, execCallCcA16, hk]
        rfl) h (by omega) (by exact .inl rfl) same
  case jpCcA16 k w =>
    by_cases hk : s.cond k = true
    · exact execEffect_of_control [] { s.cpu with pc := w } 16 (by
        simp only [exec, execJpCcA16, hk]
        rfl) h (by omega) (by exact .inl rfl) (by exact ⟨rfl, rfl, rfl, rfl, rfl⟩)
    · exact execEffect_of_control [] s.cpu 12 (by
        simp only [exec, execJpCcA16, hk]
        rfl) h (by omega) (by exact .inl rfl) same
  case jrCcE8 k e =>
    by_cases hk : s.cond k = true
    · exact execEffect_of_control [] { s.cpu with pc := s.cpu.pc + sext16 e } 12 (by
        simp only [exec, execJrCcE8, hk]
        rfl) h (by omega) (by exact .inl rfl) (by exact ⟨rfl, rfl, rfl, rfl, rfl⟩)
    · exact execEffect_of_control [] s.cpu 8 (by
        simp only [exec, execJrCcE8, hk]
        rfl) h (by omega) (by exact .inl rfl) same
  case retCc k =>
    by_cases hk : s.cond k = true
    · exact execEffect_of_control [] _ _ (by
        simp only [exec, execRetCc, hk, if_true, State.return_eq]
        rfl) h (by omega) (by exact .inl rfl) (by exact ⟨rfl, rfl, rfl, rfl, rfl⟩)
    · exact execEffect_of_control [] s.cpu 8 (by
        simp only [exec, execRetCc, hk]
        rfl) h (by omega) (by exact .inl rfl) same
  -- the rest writes plain registers or pc
  all_goals exact execEffect_of_control [] _ _ rfl h (by omega) (by exact .inl rfl) (by exact ⟨rfl, rfl, rfl, rfl, rfl⟩)

/-! ### Any step -/

/-- The three ways a step completes: stopped, halted, or an instruction that ran. -/
theorem step_next {s t : State} (h : step s = .next t) :
    s.cpu.faulted = false ∧
      ((s.cpu.stopped = true ∧ t = s.beginStep) ∨
        (s.cpu.stopped = false ∧ s.cpu.halted = true ∧ t = s.beginStep.idle.finishStep s.cpu.imePending) ∨
        (s.cpu.stopped = false ∧ s.cpu.halted = false ∧
          ∃ u, exec (s.fetchAt s.cpu.pc) (s.beginStep.advancePc (s.fetchAt s.cpu.pc)) = .next u ∧
            t = u.finishStep s.cpu.imePending)) := by
  unfold step at h
  split at h
  · cases h
  · rename_i hf
    refine ⟨by simpa using hf, ?_⟩
    split at h
    · cases h
      exact .inl ⟨‹_›, rfl⟩
    · rename_i hs
      have hs' : s.cpu.stopped = false := by simpa using hs
      refine .inr ?_
      unfold runInstruction at h
      by_cases hh : s.cpu.halted = true
      · rw [if_pos (by exact hh)] at h
        cases h
        exact .inl ⟨hs', hh, rfl⟩
      · rw [if_neg (by exact hh)] at h
        refine .inr ⟨hs', by simpa using hh, ?_⟩
        have fetch : s.beginStep.fetchAt s.beginStep.cpu.pc = s.fetchAt s.cpu.pc := rfl
        rw [fetch] at h
        split at h
        · rename_i u hu
          cases h
          exact ⟨u, hu, rfl⟩
        · cases h
        · cases h

/-- A step while halted runs no instruction (60_exceptions.md R402). -/
theorem step_halted {s : State} (hf : s.cpu.faulted = false) (hs : s.cpu.stopped = false) (hh : s.cpu.halted = true) :
    step s = .next (s.beginStep.idle.finishStep s.cpu.imePending) := by
  have run : runInstruction s.beginStep = .next s.beginStep.idle := if_pos hh
  unfold step
  rw [hf, hs, run]
  rfl

/-- Everything a dispatch check can do (60_exceptions.md R405): nothing, or take the highest-priority interrupt. -/
theorem State.dispatchCheck_cases (s : State) :
    s.dispatchCheck = s ∨
      (s.cpu.ime = true ∧ s.cpu.stopped = false ∧ s.pendingNow ≠ 0 ∧
        s.dispatchCheck = s.takeInterrupt (lowestSet s.pendingNow)) := by
  unfold State.dispatchCheck
  split
  · rename_i h
    simp only [Bool.and_eq_true, bne_iff_ne, ne_eq, Bool.not_eq_true'] at h
    exact .inr ⟨h.1.1, h.2, h.1.2, rfl⟩
  · exact .inl rfl

/-- Everything a wake check can do (60_exceptions.md R403). -/
theorem State.wakeCheck_cases (s : State) :
    s.wakeCheck = s ∨ (s.cpu.halted = true ∧ s.cpu.stopped = false ∧ s.pendingNow ≠ 0 ∧
      s.wakeCheck = s.reframe { s.cpu with halted := false } s.out) := by
  unfold State.wakeCheck
  split
  · rename_i h
    simp only [Bool.and_eq_true, bne_iff_ne, ne_eq, Bool.not_eq_true'] at h
    exact .inr ⟨h.1.2, h.1.1, h.2, rfl⟩
  · exact .inl rfl

/-- Everything the delayed effect of EI can do (60_exceptions.md R401 step 4). -/
theorem State.promoteEi_cases (fire : Bool) (s : State) :
    (s.promoteEi fire = s ∧ (fire = false ∨ s.cpu.imePending = false)) ∨
      (fire = true ∧ s.cpu.imePending = true ∧
        s.promoteEi fire = s.reframe { s.cpu with ime := true, imePending := false } s.out) := by
  unfold State.promoteEi
  split
  · rename_i h
    simp only [Bool.and_eq_true] at h
    exact .inr ⟨h.1, h.2, rfl⟩
  · rename_i h
    refine .inl ⟨rfl, ?_⟩
    cases fire
    · exact .inl rfl
    · exact .inr (by simpa using h)

end Sys2Proof.Machine
end

