-- ==== Sys2Proof/Laws/PerInstr.lean ====
section
/-! SUPPORT. The family `EncodedLength`: for every instruction, the bytes of its encoding are as many as its length
(30_encoding.md R120, R121). -/

namespace Sys2Proof.Laws.EncodedLength

/-- The encoder writes exactly the bytes the instruction occupies. -/
def Statement (i : Instr) : Prop := (encode i).length = i.size

theorem ldRR (dst src : Reg8) : Statement (.ldRR dst src) := rfl
theorem ldRHl (dst : Reg8) : Statement (.ldRHl dst) := rfl
theorem ldHlR (src : Reg8) : Statement (.ldHlR src) := rfl
theorem ldRD8 (dst : Reg8) (n : Byte) : Statement (.ldRD8 dst n) := rfl
theorem ldHlD8 (n : Byte) : Statement (.ldHlD8 n) := rfl
theorem ldABc : Statement .ldABc := rfl
theorem ldADe : Statement .ldADe := rfl
theorem ldBcA : Statement .ldBcA := rfl
theorem ldDeA : Statement .ldDeA := rfl
theorem ldHlIncA : Statement .ldHlIncA := rfl
theorem ldAHlInc : Statement .ldAHlInc := rfl
theorem ldHlDecA : Statement .ldHlDecA := rfl
theorem ldAHlDec : Statement .ldAHlDec := rfl
theorem ldhA8A (n : Byte) : Statement (.ldhA8A n) := rfl
theorem ldhAA8 (n : Byte) : Statement (.ldhAA8 n) := rfl
theorem ldCA : Statement .ldCA := rfl
theorem ldAC : Statement .ldAC := rfl
theorem ldA16A (w : Word) : Statement (.ldA16A w) := rfl
theorem ldAA16 (w : Word) : Statement (.ldAA16 w) := rfl
theorem ldRrD16 (p : Pair) (w : Word) : Statement (.ldRrD16 p w) := rfl
theorem ldA16Sp (w : Word) : Statement (.ldA16Sp w) := rfl
theorem ldSpHl : Statement .ldSpHl := rfl
theorem ldHlSpE8 (e : Byte) : Statement (.ldHlSpE8 e) := rfl
theorem pushRr (p : StackPair) : Statement (.pushRr p) := rfl
theorem popRr (p : StackPair) : Statement (.popRr p) := rfl
theorem popAf : Statement .popAf := rfl
theorem addAR (r : Reg8) : Statement (.addAR r) := rfl
theorem addAHl : Statement .addAHl := rfl
theorem addAD8 (n : Byte) : Statement (.addAD8 n) := rfl
theorem adcAR (r : Reg8) : Statement (.adcAR r) := rfl
theorem adcAHl : Statement .adcAHl := rfl
theorem adcAD8 (n : Byte) : Statement (.adcAD8 n) := rfl
theorem subAR (r : Reg8) : Statement (.subAR r) := rfl
theorem subAHl : Statement .subAHl := rfl
theorem subAD8 (n : Byte) : Statement (.subAD8 n) := rfl
theorem sbcAR (r : Reg8) : Statement (.sbcAR r) := rfl
theorem sbcAHl : Statement .sbcAHl := rfl
theorem sbcAD8 (n : Byte) : Statement (.sbcAD8 n) := rfl
theorem andAR (r : Reg8) : Statement (.andAR r) := rfl
theorem andAHl : Statement .andAHl := rfl
theorem andAD8 (n : Byte) : Statement (.andAD8 n) := rfl
theorem xorAR (r : Reg8) : Statement (.xorAR r) := rfl
theorem xorAHl : Statement .xorAHl := rfl
theorem xorAD8 (n : Byte) : Statement (.xorAD8 n) := rfl
theorem orAR (r : Reg8) : Statement (.orAR r) := rfl
theorem orAHl : Statement .orAHl := rfl
theorem orAD8 (n : Byte) : Statement (.orAD8 n) := rfl
theorem cpAR (r : Reg8) : Statement (.cpAR r) := rfl
theorem cpAHl : Statement .cpAHl := rfl
theorem cpAD8 (n : Byte) : Statement (.cpAD8 n) := rfl
theorem incR (r : Reg8) : Statement (.incR r) := rfl
theorem incHl : Statement .incHl := rfl
theorem decR (r : Reg8) : Statement (.decR r) := rfl
theorem decHl : Statement .decHl := rfl
theorem daa : Statement .daa := rfl
theorem cpl : Statement .cpl := rfl
theorem scf : Statement .scf := rfl
theorem ccf : Statement .ccf := rfl
theorem addHlRr (p : Pair) : Statement (.addHlRr p) := rfl
theorem incRr (p : Pair) : Statement (.incRr p) := rfl
theorem decRr (p : Pair) : Statement (.decRr p) := rfl
theorem addSpE8 (e : Byte) : Statement (.addSpE8 e) := rfl
theorem rlca : Statement .rlca := rfl
theorem rrca : Statement .rrca := rfl
theorem rla : Statement .rla := rfl
theorem rra : Statement .rra := rfl
theorem rlcR (r : Reg8) : Statement (.rlcR r) := rfl
theorem rlcHl : Statement .rlcHl := rfl
theorem rrcR (r : Reg8) : Statement (.rrcR r) := rfl
theorem rrcHl : Statement .rrcHl := rfl
theorem rlR (r : Reg8) : Statement (.rlR r) := rfl
theorem rlHl : Statement .rlHl := rfl
theorem rrR (r : Reg8) : Statement (.rrR r) := rfl
theorem rrHl : Statement .rrHl := rfl
theorem slaR (r : Reg8) : Statement (.slaR r) := rfl
theorem slaHl : Statement .slaHl := rfl
theorem sraR (r : Reg8) : Statement (.sraR r) := rfl
theorem sraHl : Statement .sraHl := rfl
theorem swapR (r : Reg8) : Statement (.swapR r) := rfl
theorem swapHl : Statement .swapHl := rfl
theorem srlR (r : Reg8) : Statement (.srlR r) := rfl
theorem srlHl : Statement .srlHl := rfl
theorem bitR (n : BitVec 3) (r : Reg8) : Statement (.bitR n r) := rfl
theorem bitHl (n : BitVec 3) : Statement (.bitHl n) := rfl
theorem resR (n : BitVec 3) (r : Reg8) : Statement (.resR n r) := rfl
theorem resHl (n : BitVec 3) : Statement (.resHl n) := rfl
theorem setR (n : BitVec 3) (r : Reg8) : Statement (.setR n r) := rfl
theorem setHl (n : BitVec 3) : Statement (.setHl n) := rfl
theorem jpA16 (w : Word) : Statement (.jpA16 w) := rfl
theorem jpCcA16 (k : Cond) (w : Word) : Statement (.jpCcA16 k w) := rfl
theorem jpHl : Statement .jpHl := rfl
theorem jrE8 (e : Byte) : Statement (.jrE8 e) := rfl
theorem jrCcE8 (k : Cond) (e : Byte) : Statement (.jrCcE8 k e) := rfl
theorem callA16 (w : Word) : Statement (.callA16 w) := rfl
theorem callCcA16 (k : Cond) (w : Word) : Statement (.callCcA16 k w) := rfl
theorem ret : Statement .ret := rfl
theorem retCc (k : Cond) : Statement (.retCc k) := rfl
theorem reti : Statement .reti := rfl
theorem rstT (t : BitVec 3) : Statement (.rstT t) := rfl
theorem nop : Statement .nop := rfl
theorem halt : Statement .halt := rfl
theorem stop (pad : Byte) : Statement (.stop pad) := rfl
theorem di : Statement .di := rfl
theorem ei : Statement .ei := rfl
theorem illegalD3 : Statement .illegalD3 := rfl
theorem illegalDB : Statement .illegalDB := rfl
theorem illegalDD : Statement .illegalDD := rfl
theorem illegalE3 : Statement .illegalE3 := rfl
theorem illegalE4 : Statement .illegalE4 := rfl
theorem illegalEB : Statement .illegalEB := rfl
theorem illegalEC : Statement .illegalEC := rfl
theorem illegalED : Statement .illegalED := rfl
theorem illegalF4 : Statement .illegalF4 := rfl
theorem illegalFC : Statement .illegalFC := rfl
theorem illegalFD : Statement .illegalFD := rfl

end Sys2Proof.Laws.EncodedLength
end

