-- ==== Sys2Proof/Tests/Slice0.lean ====
section
/-! SUPPORT. Tests: the well-formedness smoke test, the decoding of a word of every row, one step of every instruction from
the vectors of 95_test_vectors.md, the map and the devices, and a witness for every obligation with hypotheses. -/

namespace Sys2Proof.Tests

open Sys2Proof Sys2Proof.Machine

/-! ### Helpers -/

/-- The CPU of the vector start state VS (95_test_vectors.md Part 2). -/
def vsCpu : Cpu where
  a := 0x00
  f := 0x00
  b := 0x00
  c := 0x00
  d := 0x00
  e := 0x00
  h := 0x00
  l := 0x00
  sp := 0xDFF0
  pc := 0xC000
  ime := false
  imePending := false
  halted := false
  stopped := false
  faulted := false

/-- VS with instruction bytes at 0xC000, and what a vector's start column sets. -/
def vs (code : List Byte) (cpu : Cpu := vsCpu) (bytes : List (Word × Byte) := []) (ie iflag : Byte := 0x00) : State :=
  bytes.foldl (fun s p => s.poke p.1 p.2)
    { State.reset with
      cpu := cpu
      irq := { ie := ie, iflag := iflag }
      ram := { Rams.blank with wram := Memory.ofBytes 0xC000 code } }

/-- One step: the CPU after it, its cycles, and the bytes at some addresses. -/
def see (s : State) (addrs : List Word) : Option (Cpu × Nat × List Byte) :=
  match step s with
  | .next t => some (t.cpu, t.out.cycles, addrs.map t.memRead)
  | .fault _ => none
  | .refused _ => none

/-- One step that faults: the opcode, its address, and the CPU of the state the fault carries. -/
def faultOf (s : State) : Option (Byte × Word × Cpu) :=
  match step s with
  | .fault (.illegalOpcode opcode addr t) => some (opcode, addr, t.cpu)
  | .next _ => none
  | .refused _ => none

/-! ### Well-formedness -/

/-- `POP rr` with `pp` = 3 is no form of its row (41_load16.md R205). -/
theorem test_wf_refuses_popRr_af : Instr.wf (.popRr .af) = false := by decide

/-- The forms of its row are accepted. -/
theorem test_wf_accepts_popRr : Instr.wf (.popRr .bc) = true ∧ Instr.wf (.popRr .hl) = true := by decide

/-! ### Decoding -/

/-- Words written out from the encodings of 40_load8.md (30_encoding.md R120..R134). -/
theorem test_decode_load8_1 :
    decodeBytes 0b01010101 0 0 = .ldRR .d .l ∧
    decodeBytes 0b01100110 0 0 = .ldRHl .h ∧
    decodeBytes 0b01110100 0 0 = .ldHlR .h ∧
    decodeBytes 0b00100110 0b10011100 0 = .ldRD8 .h 0x9C ∧
    decodeBytes 0b00110110 0b10011100 0 = .ldHlD8 0x9C ∧
    decodeBytes 0b00001010 0 0 = .ldABc ∧
    decodeBytes 0b00011010 0 0 = .ldADe ∧
    decodeBytes 0b00000010 0 0 = .ldBcA ∧
    decodeBytes 0b00010010 0 0 = .ldDeA ∧
    decodeBytes 0b00100010 0 0 = .ldHlIncA ∧
    decodeBytes 0b00101010 0 0 = .ldAHlInc ∧
    decodeBytes 0b00110010 0 0 = .ldHlDecA ∧
    decodeBytes 0b00111010 0 0 = .ldAHlDec ∧
    decodeBytes 0b11100000 0b10011100 0 = .ldhA8A 0x9C ∧
    decodeBytes 0b11110000 0b10011100 0 = .ldhAA8 0x9C ∧
    decodeBytes 0b11100010 0 0 = .ldCA := by decide

/-- Words written out from the encodings of 40_load8.md (30_encoding.md R120..R134). -/
theorem test_decode_load8_2 :
    decodeBytes 0b11110010 0 0 = .ldAC ∧
    decodeBytes 0b11101010 0b00111100 0b10100101 = .ldA16A 0xA53C ∧
    decodeBytes 0b11111010 0b00111100 0b10100101 = .ldAA16 0xA53C := by decide

/-- Words written out from the encodings of 41_load16.md (30_encoding.md R120..R134). -/
theorem test_decode_load16 :
    decodeBytes 0b00100001 0b00111100 0b10100101 = .ldRrD16 .hl 0xA53C ∧
    decodeBytes 0b00001000 0b00111100 0b10100101 = .ldA16Sp 0xA53C ∧
    decodeBytes 0b11111001 0 0 = .ldSpHl ∧
    decodeBytes 0b11111000 0b10011100 0 = .ldHlSpE8 0x9C ∧
    decodeBytes 0b11010101 0 0 = .pushRr .de ∧
    decodeBytes 0b11010001 0 0 = .popRr .de ∧
    decodeBytes 0b11110001 0 0 = .popAf := by decide

/-- Words written out from the encodings of 42_alu8.md (30_encoding.md R120..R134). -/
theorem test_decode_alu8_1 :
    decodeBytes 0b10000100 0 0 = .addAR .h ∧
    decodeBytes 0b10000110 0 0 = .addAHl ∧
    decodeBytes 0b11000110 0b10011100 0 = .addAD8 0x9C ∧
    decodeBytes 0b10001100 0 0 = .adcAR .h ∧
    decodeBytes 0b10001110 0 0 = .adcAHl ∧
    decodeBytes 0b11001110 0b10011100 0 = .adcAD8 0x9C ∧
    decodeBytes 0b10010100 0 0 = .subAR .h ∧
    decodeBytes 0b10010110 0 0 = .subAHl ∧
    decodeBytes 0b11010110 0b10011100 0 = .subAD8 0x9C ∧
    decodeBytes 0b10011100 0 0 = .sbcAR .h ∧
    decodeBytes 0b10011110 0 0 = .sbcAHl ∧
    decodeBytes 0b11011110 0b10011100 0 = .sbcAD8 0x9C ∧
    decodeBytes 0b10100100 0 0 = .andAR .h ∧
    decodeBytes 0b10100110 0 0 = .andAHl ∧
    decodeBytes 0b11100110 0b10011100 0 = .andAD8 0x9C ∧
    decodeBytes 0b10101100 0 0 = .xorAR .h := by decide

/-- Words written out from the encodings of 42_alu8.md (30_encoding.md R120..R134). -/
theorem test_decode_alu8_2 :
    decodeBytes 0b10101110 0 0 = .xorAHl ∧
    decodeBytes 0b11101110 0b10011100 0 = .xorAD8 0x9C ∧
    decodeBytes 0b10110100 0 0 = .orAR .h ∧
    decodeBytes 0b10110110 0 0 = .orAHl ∧
    decodeBytes 0b11110110 0b10011100 0 = .orAD8 0x9C ∧
    decodeBytes 0b10111100 0 0 = .cpAR .h ∧
    decodeBytes 0b10111110 0 0 = .cpAHl ∧
    decodeBytes 0b11111110 0b10011100 0 = .cpAD8 0x9C ∧
    decodeBytes 0b00100100 0 0 = .incR .h ∧
    decodeBytes 0b00110100 0 0 = .incHl ∧
    decodeBytes 0b00100101 0 0 = .decR .h ∧
    decodeBytes 0b00110101 0 0 = .decHl ∧
    decodeBytes 0b00100111 0 0 = .daa ∧
    decodeBytes 0b00101111 0 0 = .cpl ∧
    decodeBytes 0b00110111 0 0 = .scf ∧
    decodeBytes 0b00111111 0 0 = .ccf := by decide

/-- Words written out from the encodings of 43_alu16.md (30_encoding.md R120..R134). -/
theorem test_decode_alu16 :
    decodeBytes 0b00101001 0 0 = .addHlRr .hl ∧
    decodeBytes 0b00100011 0 0 = .incRr .hl ∧
    decodeBytes 0b00101011 0 0 = .decRr .hl ∧
    decodeBytes 0b11101000 0b10011100 0 = .addSpE8 0x9C := by decide

/-- Words written out from the encodings of 44_rotate_shift_bit.md (30_encoding.md R120..R134). -/
theorem test_decode_rotate_shift_bit_1 :
    decodeBytes 0b00000111 0 0 = .rlca ∧
    decodeBytes 0b00001111 0 0 = .rrca ∧
    decodeBytes 0b00010111 0 0 = .rla ∧
    decodeBytes 0b00011111 0 0 = .rra ∧
    decodeBytes 0b11001011 0b00000100 0 = .rlcR .h ∧
    decodeBytes 0b11001011 0b00000110 0 = .rlcHl ∧
    decodeBytes 0b11001011 0b00001100 0 = .rrcR .h ∧
    decodeBytes 0b11001011 0b00001110 0 = .rrcHl ∧
    decodeBytes 0b11001011 0b00010100 0 = .rlR .h ∧
    decodeBytes 0b11001011 0b00010110 0 = .rlHl ∧
    decodeBytes 0b11001011 0b00011100 0 = .rrR .h ∧
    decodeBytes 0b11001011 0b00011110 0 = .rrHl ∧
    decodeBytes 0b11001011 0b00100100 0 = .slaR .h ∧
    decodeBytes 0b11001011 0b00100110 0 = .slaHl ∧
    decodeBytes 0b11001011 0b00101100 0 = .sraR .h ∧
    decodeBytes 0b11001011 0b00101110 0 = .sraHl := by decide

/-- Words written out from the encodings of 44_rotate_shift_bit.md (30_encoding.md R120..R134). -/
theorem test_decode_rotate_shift_bit_2 :
    decodeBytes 0b11001011 0b00110100 0 = .swapR .h ∧
    decodeBytes 0b11001011 0b00110110 0 = .swapHl ∧
    decodeBytes 0b11001011 0b00111100 0 = .srlR .h ∧
    decodeBytes 0b11001011 0b00111110 0 = .srlHl ∧
    decodeBytes 0b11001011 0b01101100 0 = .bitR 5 .h ∧
    decodeBytes 0b11001011 0b01101110 0 = .bitHl 5 ∧
    decodeBytes 0b11001011 0b10101100 0 = .resR 5 .h ∧
    decodeBytes 0b11001011 0b10101110 0 = .resHl 5 ∧
    decodeBytes 0b11001011 0b11101100 0 = .setR 5 .h ∧
    decodeBytes 0b11001011 0b11101110 0 = .setHl 5 := by decide

/-- Words written out from the encodings of 45_control.md (30_encoding.md R120..R134). -/
theorem test_decode_control :
    decodeBytes 0b11000011 0b00111100 0b10100101 = .jpA16 0xA53C ∧
    decodeBytes 0b11010010 0b00111100 0b10100101 = .jpCcA16 .nc 0xA53C ∧
    decodeBytes 0b11101001 0 0 = .jpHl ∧
    decodeBytes 0b00011000 0b10011100 0 = .jrE8 0x9C ∧
    decodeBytes 0b00110000 0b10011100 0 = .jrCcE8 .nc 0x9C ∧
    decodeBytes 0b11001101 0b00111100 0b10100101 = .callA16 0xA53C ∧
    decodeBytes 0b11010100 0b00111100 0b10100101 = .callCcA16 .nc 0xA53C ∧
    decodeBytes 0b11001001 0 0 = .ret ∧
    decodeBytes 0b11010000 0 0 = .retCc .nc ∧
    decodeBytes 0b11011001 0 0 = .reti ∧
    decodeBytes 0b11101111 0 0 = .rstT 5 := by decide

/-- Words written out from the encodings of 46_misc.md (30_encoding.md R120..R134). -/
theorem test_decode_misc :
    decodeBytes 0b00000000 0 0 = .nop ∧
    decodeBytes 0b01110110 0 0 = .halt ∧
    decodeBytes 0b00010000 0b10011100 0 = .stop 0x9C ∧
    decodeBytes 0b11110011 0 0 = .di ∧
    decodeBytes 0b11111011 0 0 = .ei ∧
    decodeBytes 0b11010011 0 0 = .illegalD3 ∧
    decodeBytes 0b11011011 0 0 = .illegalDB ∧
    decodeBytes 0b11011101 0 0 = .illegalDD ∧
    decodeBytes 0b11100011 0 0 = .illegalE3 ∧
    decodeBytes 0b11100100 0 0 = .illegalE4 ∧
    decodeBytes 0b11101011 0 0 = .illegalEB ∧
    decodeBytes 0b11101100 0 0 = .illegalEC ∧
    decodeBytes 0b11101101 0 0 = .illegalED ∧
    decodeBytes 0b11110100 0 0 = .illegalF4 ∧
    decodeBytes 0b11111100 0 0 = .illegalFC ∧
    decodeBytes 0b11111101 0 0 = .illegalFD := by decide

/-- A list that ends inside an instruction is refused by name; a whole one leaves the rest (30_encoding.md R136). -/
theorem test_decode_list :
    decode [] = .error .noBytes ∧ decode [0xC3, 0x50] = .error (.truncated 0xC3) ∧
      decode [0xC3, 0x50, 0x01, 0x76] = .ok (.jpA16 0x0150, [0x76]) := by decide

/-- Table words: the first byte is bits 7..0 (20_memory.md R73; log entry 12). -/
theorem test_decode_table_word :
    decodeTableWord 16 0x3ECB = some .srlHl ∧ decodeTableWord 24 0x0150C3 = some (.jpA16 0x0150) ∧
      decodeTableWord 8 0xC3 = some (.jpA16 0x0000) := by decide

/-! ### One step of every instruction, from the vectors of 95_test_vectors.md -/

/-! #### 8-bit loads (40_load8.md) -/

/-- V1: `LD B,C`. -/
theorem test_v1_ldRR :
    see (vs [0x41] { vsCpu with c := 0x5A }) [] =
      some ({ vsCpu with c := 0x5A, b := 0x5A, pc := 0xC001 }, 4, []) := by decide

/-- V3: `LD D,(HL)`. -/
theorem test_v3_ldRHl :
    see (vs [0x56] { vsCpu with h := 0xC1, l := 0x00 } [(0xC100, 0x9C)]) [0xC100] =
      some ({ vsCpu with h := 0xC1, l := 0x00, d := 0x9C, pc := 0xC001 }, 8, [0x9C]) := by decide

/-- V4: `LD (HL),E`. -/
theorem test_v4_ldHlR :
    see (vs [0x73] { vsCpu with h := 0xC1, l := 0x00, e := 0x3D }) [0xC100] =
      some ({ vsCpu with h := 0xC1, l := 0x00, e := 0x3D, pc := 0xC001 }, 8, [0x3D]) := by decide

/-- V5: `LD H,d8`. -/
theorem test_v5_ldRD8 : see (vs [0x26, 0xFE]) [] = some ({ vsCpu with h := 0xFE, pc := 0xC002 }, 8, []) := by decide

/-- V6: `LD (HL),d8`, high RAM. -/
theorem test_v6_ldHlD8 :
    see (vs [0x36, 0xA5] { vsCpu with h := 0xFF, l := 0x80 }) [0xFF80] =
      some ({ vsCpu with h := 0xFF, l := 0x80, pc := 0xC002 }, 12, [0xA5]) := by decide

/-- V7: `LD A,(BC)`. -/
theorem test_v7_ldABc :
    see (vs [0x0A] { vsCpu with b := 0xC1, c := 0x23 } [(0xC123, 0x11)]) [0xC123] =
      some ({ vsCpu with b := 0xC1, c := 0x23, a := 0x11, pc := 0xC001 }, 8, [0x11]) := by decide

/-- V8: `LD A,(DE)`, unusable region reads SENTINEL. -/
theorem test_v8_ldADe :
    see (vs [0x1A] { vsCpu with d := 0xFE, e := 0xA0 }) [] =
      some ({ vsCpu with d := 0xFE, e := 0xA0, a := 0xFF, pc := 0xC001 }, 8, []) := by decide

/-- V9: `LD (BC),A`, VRAM, not gated by LCD mode. -/
theorem test_v9_ldBcA :
    see (vs [0x02] { vsCpu with b := 0x80, c := 0x00, a := 0x42 }) [0x8000] =
      some ({ vsCpu with b := 0x80, c := 0x00, a := 0x42, pc := 0xC001 }, 8, [0x42]) := by decide

/-- V10: `LD (DE),A`, ROM, mapper none: write dropped. -/
theorem test_v10_ldDeA :
    see (vs [0x12] { vsCpu with d := 0x12, e := 0x34, a := 0x42 }) [] =
      some ({ vsCpu with d := 0x12, e := 0x34, a := 0x42, pc := 0xC001 }, 8, []) := by decide

/-- V11: `LD (HL+),A`. -/
theorem test_v11_ldHlIncA :
    see (vs [0x22] { vsCpu with h := 0xC1, l := 0xFF, a := 0x08 }) [0xC1FF] =
      some ({ vsCpu with h := 0xC2, l := 0x00, a := 0x08, pc := 0xC001 }, 8, [0x08]) := by decide

/-- V12: `LD A,(HL+)`, reads IE; HL wraps to 0. -/
theorem test_v12_ldAHlInc :
    see (vs [0x2A] { vsCpu with h := 0xFF, l := 0xFF } [] 0x1F 0x00) [0xFFFF] =
      some ({ vsCpu with h := 0x00, l := 0x00, a := 0x1F, pc := 0xC001 }, 8, [0x1F]) := by decide

/-- V13: `LD (HL-),A`, echo of 0xC000 (the code byte itself is overwritten after the fetch). -/
theorem test_v13_ldHlDecA :
    see (vs [0x32] { vsCpu with h := 0xE0, l := 0x00, a := 0x66 }) [0xC000] =
      some ({ vsCpu with h := 0xDF, l := 0xFF, a := 0x66, pc := 0xC001 }, 8, [0x66]) := by decide

/-- V14: `LD A,(HL-)`, ROM byte 0x00; HL wraps to 0xFFFF. -/
theorem test_v14_ldAHlDec :
    see (vs [0x3A] { vsCpu with h := 0x00, l := 0x00 }) [] =
      some ({ vsCpu with h := 0xFF, l := 0xFF, pc := 0xC001 }, 8, []) := by decide

/-- V15: `LDH (a8),A`. -/
theorem test_v15_ldhA8A :
    see (vs [0xE0, 0x80] { vsCpu with a := 0x99 }) [0xFF80] =
      some ({ vsCpu with a := 0x99, pc := 0xC002 }, 12, [0x99]) := by decide

/-- V16: `LDH A,(a8)`, LY = 0 at position 0. -/
theorem test_v16_ldhAA8 :
    see (vs [0xF0, 0x44] { vsCpu with a := 0x55 }) [] =
      some ({ vsCpu with a := 0x00, pc := 0xC002 }, 12, []) := by decide

/-- V17: `LDH A,(a8)`, 0xFF03 is unassigned: SENTINEL. -/
theorem test_v17_ldhAA8 :
    see (vs [0xF0, 0x03] { vsCpu with a := 0x55 }) [] =
      some ({ vsCpu with a := 0xFF, pc := 0xC002 }, 12, []) := by decide

/-- V18: `LD (C),A`, BGP. -/
theorem test_v18_ldCA :
    see (vs [0xE2] { vsCpu with c := 0x47, a := 0xE4 }) [0xFF47] =
      some ({ vsCpu with c := 0x47, a := 0xE4, pc := 0xC001 }, 8, [0xE4]) := by decide

/-- V19: `LD A,(C)`, P1 after reset, no key: 0xFF. -/
theorem test_v19_ldAC :
    see (vs [0xF2] { vsCpu with c := 0x00 }) [] =
      some ({ vsCpu with c := 0x00, a := 0xFF, pc := 0xC001 }, 8, []) := by decide

/-- V20: `LD (a16),A`, a16 = 0xD000, low byte first. -/
theorem test_v20_ldA16A :
    see (vs [0xEA, 0x00, 0xD0] { vsCpu with a := 0x42 }) [0xD000] =
      some ({ vsCpu with a := 0x42, pc := 0xC003 }, 16, [0x42]) := by decide

/-- V217: `LD (a16),A`, software sets IF bit 2: dispatched at the end of the same step. -/
theorem test_v217_ldA16A :
    see (vs [0xEA, 0x0F, 0xFF] { vsCpu with ime := true, a := 0x04 } [] 0x04 0x00) [0xDFEE, 0xDFEF, 0xFFFF] =
      some ({ vsCpu with ime := false, a := 0x04, sp := 0xDFEE, pc := 0x0050 }, 16, [0x03, 0xC0, 0x04]) := by decide

/-- V21: `LD A,(a16)`, cartridge RAM absent: SENTINEL. -/
theorem test_v21_ldAA16 :
    see (vs [0xFA, 0x00, 0xA0] { vsCpu with a := 0x42 }) [] =
      some ({ vsCpu with a := 0xFF, pc := 0xC003 }, 16, []) := by decide

/-! #### 16-bit loads and stack (41_load16.md) -/

/-- V30: `LD BC,d16`, low byte first. -/
theorem test_v30_ldRrD16 :
    see (vs [0x01, 0x34, 0x12]) [] =
      some ({ vsCpu with b := 0x12, c := 0x34, pc := 0xC003 }, 12, []) := by decide

/-- V31: `LD SP,d16`. -/
theorem test_v31_ldRrD16 :
    see (vs [0x31, 0xFE, 0xFF]) [] =
      some ({ vsCpu with sp := 0xFFFE, pc := 0xC003 }, 12, []) := by decide

/-- V32: `LD (a16),SP`, low byte at a16. -/
theorem test_v32_ldA16Sp :
    see (vs [0x08, 0x00, 0xC1] { vsCpu with sp := 0xBEEF }) [0xC100, 0xC101] =
      some ({ vsCpu with sp := 0xBEEF, pc := 0xC003 }, 20, [0xEF, 0xBE]) := by decide

/-- V33: `LD (a16),SP`, a16+1 wraps to 0x0000 (ROM, dropped); IE gets the low byte. -/
theorem test_v33_ldA16Sp :
    see (vs [0x08, 0xFF, 0xFF] { vsCpu with sp := 0x1234 }) [0xFFFF] =
      some ({ vsCpu with sp := 0x1234, pc := 0xC003 }, 20, [0x34]) := by decide

/-- V34: `LD SP,HL`. -/
theorem test_v34_ldSpHl :
    see (vs [0xF9] { vsCpu with h := 0xC8, l := 0x00 }) [] =
      some ({ vsCpu with h := 0xC8, l := 0x00, sp := 0xC800, pc := 0xC001 }, 8, []) := by decide

/-- V35: `LD HL,SP+e8`, H and C from the low byte addition. -/
theorem test_v35_ldHlSpE8 :
    see (vs [0xF8, 0x01] { vsCpu with sp := 0x00FF }) [] =
      some ({ vsCpu with sp := 0x00FF, f := 0x30, h := 0x01, pc := 0xC002 }, 12, []) := by decide

/-- V36: `LD HL,SP+e8`, e8 = -1; unsigned byte 0xFF added to 0x00: no carries. -/
theorem test_v36_ldHlSpE8 :
    see (vs [0xF8, 0xFF] { vsCpu with sp := 0x0000 }) [] =
      some ({ vsCpu with sp := 0x0000, h := 0xFF, l := 0xFF, pc := 0xC002 }, 12, []) := by decide

/-- V38: `PUSH BC`, high byte at SP-1. -/
theorem test_v38_pushRr :
    see (vs [0xC5] { vsCpu with b := 0x12, c := 0x34 }) [0xDFEE, 0xDFEF] =
      some ({ vsCpu with b := 0x12, c := 0x34, sp := 0xDFEE, pc := 0xC001 }, 16, [0x34, 0x12]) := by decide

/-- V40: `PUSH HL`, SP wraps: high byte to 0x0000 (ROM, dropped), low byte to IE. -/
theorem test_v40_pushRr :
    see (vs [0xE5] { vsCpu with h := 0xAB, l := 0xCD, sp := 0x0001 }) [0xFFFF] =
      some ({ vsCpu with h := 0xAB, l := 0xCD, sp := 0xFFFF, pc := 0xC001 }, 16, [0xCD]) := by decide

/-- V41: `POP DE`. -/
theorem test_v41_popRr :
    see (vs [0xD1] { vsCpu with sp := 0xC100 } [(0xC100, 0xCD), (0xC101, 0xAB)]) [0xC100, 0xC101] =
      some ({ vsCpu with sp := 0xC102, d := 0xAB, e := 0xCD, pc := 0xC001 }, 12, [0xCD, 0xAB]) := by decide

/-- V43: `POP HL`, low from IE, high from 0x0000 (ROM byte 0x00); SP wraps to 0x0001. -/
theorem test_v43_popRr :
    see (vs [0xE1] { vsCpu with sp := 0xFFFF } [] 0x34 0x00) [0xFFFF] =
      some ({ vsCpu with sp := 0x0001, l := 0x34, pc := 0xC001 }, 12, [0x34]) := by decide

/-- V42: `POP AF`, low nibble of F forced to 0. -/
theorem test_v42_popAf :
    see (vs [0xF1] { vsCpu with sp := 0xC100 } [(0xC100, 0xFF), (0xC101, 0x12)]) [0xC100, 0xC101] =
      some ({ vsCpu with sp := 0xC102, a := 0x12, f := 0xF0, pc := 0xC001 }, 12, [0xFF, 0x12]) := by decide

/-! #### 8-bit arithmetic and logic (42_alu8.md) -/

/-- V50: `ADD A,B`, result 0 with both carries. -/
theorem test_v50_addAR :
    see (vs [0x80] { vsCpu with a := 0x3A, b := 0xC6 }) [] =
      some ({ vsCpu with a := 0x00, b := 0xC6, f := 0xB0, pc := 0xC001 }, 4, []) := by decide

/-- V51: `ADD A,(HL)`, half carry only. -/
theorem test_v51_addAHl :
    see (vs [0x86] { vsCpu with a := 0x0F, h := 0xC1, l := 0x00 } [(0xC100, 0x01)]) [0xC100] =
      some ({ vsCpu with a := 0x10, h := 0xC1, l := 0x00, f := 0x20, pc := 0xC001 }, 8, [0x01]) := by decide

/-- V52: `ADD A,d8`, carry, zero, no half carry. -/
theorem test_v52_addAD8 :
    see (vs [0xC6, 0x80] { vsCpu with a := 0x80 }) [] =
      some ({ vsCpu with a := 0x00, f := 0x90, pc := 0xC002 }, 8, []) := by decide

/-- V53: `ADC A,C`, carry in alone overflows. -/
theorem test_v53_adcAR :
    see (vs [0x89] { vsCpu with a := 0xFF, c := 0x00, f := 0x10 }) [] =
      some ({ vsCpu with a := 0x00, c := 0x00, f := 0xB0, pc := 0xC001 }, 4, []) := by decide

/-- V55: `ADC A,(HL)`. -/
theorem test_v55_adcAHl :
    see (vs [0x8E] { vsCpu with a := 0x10, h := 0xC1, l := 0x00, f := 0x00 } [(0xC100, 0x22)]) [0xC100] =
      some ({ vsCpu with a := 0x32, h := 0xC1, l := 0x00, f := 0x00, pc := 0xC001 }, 8, [0x22]) := by decide

/-- V54: `ADC A,d8`, 0 + 0x0F + 1: half carry from the carry in. -/
theorem test_v54_adcAD8 :
    see (vs [0xCE, 0x0F] { vsCpu with a := 0x00, f := 0x10 }) [] =
      some ({ vsCpu with a := 0x10, f := 0x20, pc := 0xC002 }, 8, []) := by decide

/-- V56: `SUB A,B`. -/
theorem test_v56_subAR :
    see (vs [0x90] { vsCpu with a := 0x3E, b := 0x3E }) [] =
      some ({ vsCpu with a := 0x00, b := 0x3E, f := 0xC0, pc := 0xC001 }, 4, []) := by decide

/-- V58: `SUB A,(HL)`, borrow: C=1. -/
theorem test_v58_subAHl :
    see (vs [0x96] { vsCpu with a := 0x3E, h := 0xC1, l := 0x00 } [(0xC100, 0x40)]) [0xC100] =
      some ({ vsCpu with a := 0xFE, h := 0xC1, l := 0x00, f := 0x50, pc := 0xC001 }, 8, [0x40]) := by decide

/-- V57: `SUB A,d8`, borrow from bit 4. -/
theorem test_v57_subAD8 :
    see (vs [0xD6, 0x0F] { vsCpu with a := 0x3E }) [] =
      some ({ vsCpu with a := 0x2F, f := 0x60, pc := 0xC002 }, 8, []) := by decide

/-- V59: `SBC A,H`. -/
theorem test_v59_sbcAR :
    see (vs [0x9C] { vsCpu with a := 0x3B, h := 0x2A, f := 0x10 }) [] =
      some ({ vsCpu with a := 0x10, h := 0x2A, f := 0x40, pc := 0xC001 }, 4, []) := by decide

/-- V61: `SBC A,(HL)`. -/
theorem test_v61_sbcAHl :
    see (vs [0x9E] { vsCpu with a := 0x3B, h := 0xC1, l := 0x00, f := 0x10 } [(0xC100, 0x4F)]) [0xC100] =
      some ({ vsCpu with a := 0xEB, h := 0xC1, l := 0x00, f := 0x70, pc := 0xC001 }, 8, [0x4F]) := by decide

/-- V60: `SBC A,d8`, 0 - 0 - 1. -/
theorem test_v60_sbcAD8 :
    see (vs [0xDE, 0x00] { vsCpu with a := 0x00, f := 0x10 }) [] =
      some ({ vsCpu with a := 0xFF, f := 0x70, pc := 0xC002 }, 8, []) := by decide

/-- V62: `AND A,L`, H always 1. -/
theorem test_v62_andAR :
    see (vs [0xA5] { vsCpu with a := 0x5A, l := 0x3F }) [] =
      some ({ vsCpu with a := 0x1A, l := 0x3F, f := 0x20, pc := 0xC001 }, 4, []) := by decide

/-- V64: `AND A,(HL)`. -/
theorem test_v64_andAHl :
    see (vs [0xA6] { vsCpu with a := 0x5A, h := 0xC1, l := 0x00 } [(0xC100, 0x18)]) [0xC100] =
      some ({ vsCpu with a := 0x18, h := 0xC1, l := 0x00, f := 0x20, pc := 0xC001 }, 8, [0x18]) := by decide

/-- V63: `AND A,d8`. -/
theorem test_v63_andAD8 :
    see (vs [0xE6, 0x00] { vsCpu with a := 0x5A, f := 0x10 }) [] =
      some ({ vsCpu with a := 0x00, f := 0xA0, pc := 0xC002 }, 8, []) := by decide

/-- V65: `XOR A,A`, the idiom for A <- 0. -/
theorem test_v65_xorAR :
    see (vs [0xAF] { vsCpu with a := 0x5A, f := 0x70 }) [] =
      some ({ vsCpu with a := 0x00, f := 0x80, pc := 0xC001 }, 4, []) := by decide

/-- V67: `XOR A,(HL)`. -/
theorem test_v67_xorAHl :
    see (vs [0xAE] { vsCpu with a := 0xFF, h := 0xC1, l := 0x00 } [(0xC100, 0x8A)]) [0xC100] =
      some ({ vsCpu with a := 0x75, h := 0xC1, l := 0x00, pc := 0xC001 }, 8, [0x8A]) := by decide

/-- V66: `XOR A,d8`. -/
theorem test_v66_xorAD8 :
    see (vs [0xEE, 0x0F] { vsCpu with a := 0xFF }) [] =
      some ({ vsCpu with a := 0xF0, pc := 0xC002 }, 8, []) := by decide

/-- V68: `OR A,A`, tests A for zero. -/
theorem test_v68_orAR :
    see (vs [0xB7] { vsCpu with a := 0x00, f := 0xF0 }) [] =
      some ({ vsCpu with a := 0x00, f := 0x80, pc := 0xC001 }, 4, []) := by decide

/-- V70: `OR A,(HL)`. -/
theorem test_v70_orAHl :
    see (vs [0xB6] { vsCpu with a := 0x5A, h := 0xC1, l := 0x00 } [(0xC100, 0x0F)]) [0xC100] =
      some ({ vsCpu with a := 0x5F, h := 0xC1, l := 0x00, pc := 0xC001 }, 8, [0x0F]) := by decide

/-- V69: `OR A,d8`. -/
theorem test_v69_orAD8 :
    see (vs [0xF6, 0x03] { vsCpu with a := 0x5A }) [] =
      some ({ vsCpu with a := 0x5B, pc := 0xC002 }, 8, []) := by decide

/-- V71: `CP A,B`, A unchanged. -/
theorem test_v71_cpAR :
    see (vs [0xB8] { vsCpu with a := 0x3C, b := 0x2F }) [] =
      some ({ vsCpu with a := 0x3C, b := 0x2F, f := 0x60, pc := 0xC001 }, 4, []) := by decide

/-- V73: `CP A,(HL)`. -/
theorem test_v73_cpAHl :
    see (vs [0xBE] { vsCpu with a := 0x3C, h := 0xC1, l := 0x00 } [(0xC100, 0x40)]) [0xC100] =
      some ({ vsCpu with a := 0x3C, h := 0xC1, l := 0x00, f := 0x50, pc := 0xC001 }, 8, [0x40]) := by decide

/-- V72: `CP A,d8`. -/
theorem test_v72_cpAD8 :
    see (vs [0xFE, 0x3C] { vsCpu with a := 0x3C }) [] =
      some ({ vsCpu with a := 0x3C, f := 0xC0, pc := 0xC002 }, 8, []) := by decide

/-- V74: `INC B`, C preserved. -/
theorem test_v74_incR :
    see (vs [0x04] { vsCpu with b := 0xFF, f := 0x10 }) [] =
      some ({ vsCpu with b := 0x00, f := 0xB0, pc := 0xC001 }, 4, []) := by decide

/-- V76: `INC (HL)`. -/
theorem test_v76_incHl :
    see (vs [0x34] { vsCpu with h := 0xC1, l := 0x00 } [(0xC100, 0x50)]) [0xC100] =
      some ({ vsCpu with h := 0xC1, l := 0x00, pc := 0xC001 }, 12, [0x51]) := by decide

/-- V78: `DEC C`, borrow from bit 4; C preserved. -/
theorem test_v78_decR :
    see (vs [0x0D] { vsCpu with c := 0x00, f := 0x10 }) [] =
      some ({ vsCpu with c := 0xFF, f := 0x70, pc := 0xC001 }, 4, []) := by decide

/-- V79: `DEC (HL)`. -/
theorem test_v79_decHl :
    see (vs [0x35] { vsCpu with h := 0xC1, l := 0x00 } [(0xC100, 0x10)]) [0xC100] =
      some ({ vsCpu with h := 0xC1, l := 0x00, f := 0x60, pc := 0xC001 }, 12, [0x0F]) := by decide

/-- V80: `DAA`, after 0x15 + 0x27: BCD 42. -/
theorem test_v80_daa :
    see (vs [0x27] { vsCpu with a := 0x3C, f := 0x00 }) [] =
      some ({ vsCpu with a := 0x42, f := 0x00, pc := 0xC001 }, 4, []) := by decide

/-- V84: `DAA`, N=1, H=1, C=1: subtracts 0x66. -/
theorem test_v84_daa :
    see (vs [0x27] { vsCpu with a := 0x00, f := 0x70 }) [] =
      some ({ vsCpu with a := 0x9A, f := 0x50, pc := 0xC001 }, 4, []) := by decide

/-- V85: `CPL`, Z and C preserved. -/
theorem test_v85_cpl :
    see (vs [0x2F] { vsCpu with a := 0x35, f := 0x90 }) [] =
      some ({ vsCpu with a := 0xCA, f := 0xF0, pc := 0xC001 }, 4, []) := by decide

/-- V86: `SCF`, Z preserved. -/
theorem test_v86_scf :
    see (vs [0x37] { vsCpu with f := 0xE0 }) [] =
      some ({ vsCpu with f := 0x90, pc := 0xC001 }, 4, []) := by decide

/-- V87: `CCF`. -/
theorem test_v87_ccf :
    see (vs [0x3F] { vsCpu with f := 0xF0 }) [] =
      some ({ vsCpu with f := 0x80, pc := 0xC001 }, 4, []) := by decide

/-! #### 16-bit arithmetic (43_alu16.md) -/

/-- V100: `ADD HL,BC`, carry out of bit 11; Z preserved. -/
theorem test_v100_addHlRr :
    see (vs [0x09] { vsCpu with h := 0x8A, l := 0x23, b := 0x06, c := 0x05, f := 0x80 }) [] =
      some ({ vsCpu with h := 0x90, l := 0x28, b := 0x06, c := 0x05, f := 0xA0, pc := 0xC001 }, 8, []) := by decide

/-- V102: `ADD HL,SP`, result 0, Z not set by this instruction. -/
theorem test_v102_addHlRr :
    see (vs [0x39] { vsCpu with h := 0x00, l := 0x01, sp := 0xFFFF }) [] =
      some ({ vsCpu with h := 0x00, l := 0x00, sp := 0xFFFF, f := 0x30, pc := 0xC001 }, 8, []) := by decide

/-- V104: `INC BC`, wraps, no flags. -/
theorem test_v104_incRr :
    see (vs [0x03] { vsCpu with b := 0xFF, c := 0xFF, f := 0xF0 }) [] =
      some ({ vsCpu with b := 0x00, c := 0x00, f := 0xF0, pc := 0xC001 }, 8, []) := by decide

/-- V106: `DEC DE`. -/
theorem test_v106_decRr :
    see (vs [0x1B] { vsCpu with d := 0x00, e := 0x00 }) [] =
      some ({ vsCpu with d := 0xFF, e := 0xFF, pc := 0xC001 }, 8, []) := by decide

/-- V109: `ADD SP,e8`, e8 = -2; flags from 0x00 + 0xFE. -/
theorem test_v109_addSpE8 :
    see (vs [0xE8, 0xFE] { vsCpu with sp := 0xD000 }) [] =
      some ({ vsCpu with sp := 0xCFFE, pc := 0xC002 }, 16, []) := by decide

/-- V110: `ADD SP,e8`, e8 = -1; 0xFF + 0xFF sets H and C; Z, N cleared. -/
theorem test_v110_addSpE8 :
    see (vs [0xE8, 0xFF] { vsCpu with sp := 0x00FF, f := 0xC0 }) [] =
      some ({ vsCpu with sp := 0x00FE, f := 0x30, pc := 0xC002 }, 16, []) := by decide

/-! #### Rotates, shifts and bit operations (44_rotate_shift_bit.md) -/

/-- V120: `RLCA`. -/
theorem test_v120_rlca :
    see (vs [0x07] { vsCpu with a := 0x85, f := 0xE0 }) [] =
      some ({ vsCpu with a := 0x0B, f := 0x10, pc := 0xC001 }, 4, []) := by decide

/-- V122: `RRCA`. -/
theorem test_v122_rrca :
    see (vs [0x0F] { vsCpu with a := 0x3B }) [] =
      some ({ vsCpu with a := 0x9D, f := 0x10, pc := 0xC001 }, 4, []) := by decide

/-- V124: `RLA`, A becomes 0, Z stays 0. -/
theorem test_v124_rla :
    see (vs [0x17] { vsCpu with a := 0x80, f := 0x00 }) [] =
      some ({ vsCpu with a := 0x00, f := 0x10, pc := 0xC001 }, 4, []) := by decide

/-- V125: `RRA`. -/
theorem test_v125_rra :
    see (vs [0x1F] { vsCpu with a := 0x81, f := 0x00 }) [] =
      some ({ vsCpu with a := 0x40, f := 0x10, pc := 0xC001 }, 4, []) := by decide

/-- V126: `RLC B`. -/
theorem test_v126_rlcR :
    see (vs [0xCB, 0x00] { vsCpu with b := 0x85 }) [] =
      some ({ vsCpu with b := 0x0B, f := 0x10, pc := 0xC002 }, 8, []) := by decide

/-- V128: `RLC (HL)`. -/
theorem test_v128_rlcHl :
    see (vs [0xCB, 0x06] { vsCpu with h := 0xC1, l := 0x00 } [(0xC100, 0x80)]) [0xC100] =
      some ({ vsCpu with h := 0xC1, l := 0x00, f := 0x10, pc := 0xC002 }, 16, [0x01]) := by decide

/-- V129: `RRC C`. -/
theorem test_v129_rrcR :
    see (vs [0xCB, 0x09] { vsCpu with c := 0x01 }) [] =
      some ({ vsCpu with c := 0x80, f := 0x10, pc := 0xC002 }, 8, []) := by decide

/-- V130: `RRC (HL)`. -/
theorem test_v130_rrcHl :
    see (vs [0xCB, 0x0E] { vsCpu with h := 0xC1, l := 0x00 } [(0xC100, 0x00)]) [0xC100] =
      some ({ vsCpu with h := 0xC1, l := 0x00, f := 0x80, pc := 0xC002 }, 16, [0x00]) := by decide

/-- V131: `RL D`. -/
theorem test_v131_rlR :
    see (vs [0xCB, 0x12] { vsCpu with d := 0x80, f := 0x00 }) [] =
      some ({ vsCpu with d := 0x00, f := 0x90, pc := 0xC002 }, 8, []) := by decide

/-- V132: `RL (HL)`. -/
theorem test_v132_rlHl :
    see (vs [0xCB, 0x16] { vsCpu with h := 0xC1, l := 0x00, f := 0x10 } [(0xC100, 0x11)]) [0xC100] =
      some ({ vsCpu with h := 0xC1, l := 0x00, f := 0x00, pc := 0xC002 }, 16, [0x23]) := by decide

/-- V133: `RR E`. -/
theorem test_v133_rrR :
    see (vs [0xCB, 0x1B] { vsCpu with e := 0x01, f := 0x00 }) [] =
      some ({ vsCpu with e := 0x00, f := 0x90, pc := 0xC002 }, 8, []) := by decide

/-- V134: `RR (HL)`. -/
theorem test_v134_rrHl :
    see (vs [0xCB, 0x1E] { vsCpu with h := 0xC1, l := 0x00, f := 0x10 } [(0xC100, 0x8A)]) [0xC100] =
      some ({ vsCpu with h := 0xC1, l := 0x00, f := 0x00, pc := 0xC002 }, 16, [0xC5]) := by decide

/-- V135: `SLA H`. -/
theorem test_v135_slaR :
    see (vs [0xCB, 0x24] { vsCpu with h := 0x80 }) [] =
      some ({ vsCpu with h := 0x00, f := 0x90, pc := 0xC002 }, 8, []) := by decide

/-- V136: `SLA (HL)`. -/
theorem test_v136_slaHl :
    see (vs [0xCB, 0x26] { vsCpu with h := 0xC1, l := 0x00 } [(0xC100, 0xFF)]) [0xC100] =
      some ({ vsCpu with h := 0xC1, l := 0x00, f := 0x10, pc := 0xC002 }, 16, [0xFE]) := by decide

/-- V137: `SRA L`, bit 7 kept. -/
theorem test_v137_sraR :
    see (vs [0xCB, 0x2D] { vsCpu with l := 0x8A }) [] =
      some ({ vsCpu with l := 0xC5, pc := 0xC002 }, 8, []) := by decide

/-- V138: `SRA (HL)`. -/
theorem test_v138_sraHl :
    see (vs [0xCB, 0x2E] { vsCpu with h := 0xC1, l := 0x00 } [(0xC100, 0x01)]) [0xC100] =
      some ({ vsCpu with h := 0xC1, l := 0x00, f := 0x90, pc := 0xC002 }, 16, [0x00]) := by decide

/-- V139: `SWAP A`, C cleared. -/
theorem test_v139_swapR :
    see (vs [0xCB, 0x37] { vsCpu with a := 0xF1, f := 0xF0 }) [] =
      some ({ vsCpu with a := 0x1F, f := 0x00, pc := 0xC002 }, 8, []) := by decide

/-- V140: `SWAP (HL)`. -/
theorem test_v140_swapHl :
    see (vs [0xCB, 0x36] { vsCpu with h := 0xC1, l := 0x00 } [(0xC100, 0x00)]) [0xC100] =
      some ({ vsCpu with h := 0xC1, l := 0x00, f := 0x80, pc := 0xC002 }, 16, [0x00]) := by decide

/-- V141: `SRL B`. -/
theorem test_v141_srlR :
    see (vs [0xCB, 0x38] { vsCpu with b := 0x01 }) [] =
      some ({ vsCpu with b := 0x00, f := 0x90, pc := 0xC002 }, 8, []) := by decide

/-- V142: `SRL (HL)`. -/
theorem test_v142_srlHl :
    see (vs [0xCB, 0x3E] { vsCpu with h := 0xC1, l := 0x00 } [(0xC100, 0xFF)]) [0xC100] =
      some ({ vsCpu with h := 0xC1, l := 0x00, f := 0x10, pc := 0xC002 }, 16, [0x7F]) := by decide

/-- V143: `BIT 7,H`, bit set: Z=0; C preserved. -/
theorem test_v143_bitR :
    see (vs [0xCB, 0x7C] { vsCpu with h := 0x80, f := 0x50 }) [] =
      some ({ vsCpu with h := 0x80, f := 0x30, pc := 0xC002 }, 8, []) := by decide

/-- V145: `BIT 4,(HL)`, 12 cycles: no write-back. -/
theorem test_v145_bitHl :
    see (vs [0xCB, 0x66] { vsCpu with h := 0xC1, l := 0x00 } [(0xC100, 0x10)]) [0xC100] =
      some ({ vsCpu with h := 0xC1, l := 0x00, f := 0x20, pc := 0xC002 }, 12, [0x10]) := by decide

/-- V146: `RES 7,A`, no flags. -/
theorem test_v146_resR :
    see (vs [0xCB, 0xBF] { vsCpu with a := 0xFF, f := 0xF0 }) [] =
      some ({ vsCpu with a := 0x7F, f := 0xF0, pc := 0xC002 }, 8, []) := by decide

/-- V147: `RES 0,(HL)`. -/
theorem test_v147_resHl :
    see (vs [0xCB, 0x86] { vsCpu with h := 0xC1, l := 0x00 } [(0xC100, 0xFF)]) [0xC100] =
      some ({ vsCpu with h := 0xC1, l := 0x00, pc := 0xC002 }, 16, [0xFE]) := by decide

/-- V148: `SET 3,E`. -/
theorem test_v148_setR :
    see (vs [0xCB, 0xDB] { vsCpu with e := 0x00 }) [] =
      some ({ vsCpu with e := 0x08, pc := 0xC002 }, 8, []) := by decide

/-- V149: `SET 7,(HL)`. -/
theorem test_v149_setHl :
    see (vs [0xCB, 0xFE] { vsCpu with h := 0xC1, l := 0x00 } [(0xC100, 0x01)]) [0xC100] =
      some ({ vsCpu with h := 0xC1, l := 0x00, pc := 0xC002 }, 16, [0x81]) := by decide

/-- V150: `SET 1,(HL)`. -/
theorem test_v150_setHl :
    see (vs [0xCB, 0xCE] { vsCpu with h := 0x20, l := 0x00 }) [] =
      some ({ vsCpu with h := 0x20, l := 0x00, pc := 0xC002 }, 16, []) := by decide

/-! #### Jumps, calls and returns (45_control.md) -/

/-- V160: `JP a16`. -/
theorem test_v160_jpA16 : see (vs [0xC3, 0x50, 0x01]) [] = some ({ vsCpu with pc := 0x0150 }, 16, []) := by decide

/-- V218: `JP a16`. -/
theorem test_v218_jpA16 :
    see (vs [0xC3, 0x00, 0xD0] { vsCpu with ime := true } [] 0x01 0x01) [0xDFEF, 0xFF0F, 0xFFFF] =
      some ({ vsCpu with ime := false, sp := 0xDFEE, pc := 0x0040 }, 16, [0xD0, 0x00, 0x01]) := by decide

/-- V161: `JP NZ,a16`, taken. -/
theorem test_v161_jpCcA16 :
    see (vs [0xC2, 0x50, 0x01] { vsCpu with f := 0x00 }) [] =
      some ({ vsCpu with f := 0x00, pc := 0x0150 }, 16, []) := by decide

/-- V162: `JP NZ,a16`, not taken. -/
theorem test_v162_jpCcA16 :
    see (vs [0xC2, 0x50, 0x01] { vsCpu with f := 0x80 }) [] =
      some ({ vsCpu with f := 0x80, pc := 0xC003 }, 12, []) := by decide

/-- V164: `JP HL`, no memory access. -/
theorem test_v164_jpHl :
    see (vs [0xE9] { vsCpu with h := 0xC2, l := 0x00 }) [] =
      some ({ vsCpu with h := 0xC2, l := 0x00, pc := 0xC200 }, 4, []) := by decide

/-- V167: `JR e8`, e8 = -128. -/
theorem test_v167_jrE8 : see (vs [0x18, 0x80]) [] = some ({ vsCpu with pc := 0xBF82 }, 12, []) := by decide

/-- V171: `JR e8`, code in high RAM; 0xFFF2 + 127 wraps to 0x0071. -/
theorem test_v171_jrE8 :
    see (vs [] { vsCpu with pc := 0xFFF0 } [(0xFFF0, 0x18), (0xFFF1, 0x7F)]) [0xFFF0, 0xFFF1] =
      some ({ vsCpu with pc := 0x0071 }, 12, [0x18, 0x7F]) := by decide

/-- V170: `JR NC,e8`, taken, e8 = -5. -/
theorem test_v170_jrCcE8 :
    see (vs [0x30, 0xFB] { vsCpu with f := 0x00 }) [] =
      some ({ vsCpu with f := 0x00, pc := 0xBFFD }, 12, []) := by decide

/-- V169: `JR Z,e8`, not taken. -/
theorem test_v169_jrCcE8 :
    see (vs [0x28, 0x10] { vsCpu with f := 0x00 }) [] =
      some ({ vsCpu with f := 0x00, pc := 0xC002 }, 8, []) := by decide

/-- V172: `CALL a16`, return address 0xC003 pushed. -/
theorem test_v172_callA16 :
    see (vs [0xCD, 0x34, 0x12]) [0xDFEE, 0xDFEF] =
      some ({ vsCpu with sp := 0xDFEE, pc := 0x1234 }, 24, [0x03, 0xC0]) := by decide +kernel

/-- V173: `CALL Z,a16`, taken. -/
theorem test_v173_callCcA16 :
    see (vs [0xCC, 0x34, 0x12] { vsCpu with f := 0x80 }) [0xDFEE, 0xDFEF] =
      some ({ vsCpu with f := 0x80, sp := 0xDFEE, pc := 0x1234 }, 24, [0x03, 0xC0]) := by decide +kernel

/-- V174: `CALL Z,a16`, not taken: no stack access. -/
theorem test_v174_callCcA16 :
    see (vs [0xCC, 0x34, 0x12] { vsCpu with f := 0x00 }) [] =
      some ({ vsCpu with f := 0x00, pc := 0xC003 }, 12, []) := by decide

/-- V175: `RET`. -/
theorem test_v175_ret :
    see (vs [0xC9] { vsCpu with sp := 0xC100 } [(0xC100, 0x03), (0xC101, 0xC0)]) [0xC100, 0xC101] =
      some ({ vsCpu with sp := 0xC102, pc := 0xC003 }, 16, [0x03, 0xC0]) := by decide

/-- V176: `RET NC`, taken: 20 cycles. -/
theorem test_v176_retCc :
    see (vs [0xD0] { vsCpu with sp := 0xC100, f := 0x00 } [(0xC100, 0x03), (0xC101, 0xC0)]) [0xC100, 0xC101] =
      some ({ vsCpu with sp := 0xC102, f := 0x00, pc := 0xC003 }, 20, [0x03, 0xC0]) := by decide

/-- V177: `RET NC`, not taken: 8 cycles. -/
theorem test_v177_retCc :
    see (vs [0xD0] { vsCpu with sp := 0xC100, f := 0x10 } [(0xC100, 0x03), (0xC101, 0xC0)]) [0xC100, 0xC101] =
      some ({ vsCpu with sp := 0xC100, f := 0x10, pc := 0xC001 }, 8, [0x03, 0xC0]) := by decide

/-- V178: `RETI`, IME set at once, no delay. -/
theorem test_v178_reti :
    see (vs [0xD9] { vsCpu with sp := 0xC100, ime := false } [(0xC100, 0x03), (0xC101, 0xC0)]) [0xC100, 0xC101] =
      some ({ vsCpu with sp := 0xC102, ime := true, pc := 0xC003 }, 16, [0x03, 0xC0]) := by decide

/-- V220: `RETI`. -/
theorem test_v220_reti :
    see (vs [0xD9] { vsCpu with sp := 0xC100 } [(0xC100, 0x03), (0xC101, 0xC0)] 0x02 0x02)
      [0xFF0F, 0xC100, 0xC101, 0xFFFF] =
      some ({ vsCpu with sp := 0xC100, pc := 0x0048 }, 16, [0x00, 0x03, 0xC0, 0x02]) := by decide

/-- V179: `RST 0x38`. -/
theorem test_v179_rstT :
    see (vs [0xFF]) [0xDFEE, 0xDFEF] =
      some ({ vsCpu with sp := 0xDFEE, pc := 0x0038 }, 16, [0x01, 0xC0]) := by decide

/-- V181: `RST 0x28`, the push overwrites the bytes at 0xC000-0xC001 (the RST itself) after it was fetched. -/
theorem test_v181_rstT :
    see (vs [0xEF] { vsCpu with sp := 0xC002 }) [0xC000, 0xC001] =
      some ({ vsCpu with sp := 0xC000, pc := 0x0028 }, 16, [0x01, 0xC0]) := by decide

/-! #### CPU control and interrupts (46_misc.md, 60_exceptions.md) -/

/-- V210: `NOP`, all five pending: V-Blank (bit 0) wins; IF 0x1F -> 0x1E. -/
theorem test_v210_nop :
    see (vs [0x00] { vsCpu with ime := true } [] 0x1F 0x1F) [0xDFEE, 0xDFEF, 0xFF0F, 0xFFFF] =
      some ({ vsCpu with ime := false, sp := 0xDFEE, pc := 0x0040 }, 4, [0x01, 0xC0, 0x1E, 0x1F]) := by decide

/-- V212: `NOP`, Joypad, vector 0x0060; upper IF bits kept. -/
theorem test_v212_nop :
    see (vs [0x00] { vsCpu with ime := true } [] 0x10 0xF0) [0xDFEE, 0xDFEF, 0xFF0F, 0xFFFF] =
      some ({ vsCpu with ime := false, sp := 0xDFEE, pc := 0x0060 }, 4, [0x01, 0xC0, 0xE0, 0x10]) := by decide

/-- V192: `HALT`, already enabled and pending, IME=0: woken in the same step, IF keeps its bit. -/
theorem test_v192_halt :
    see (vs [0x76] { vsCpu with ime := false } [] 0x04 0x04) [0xFFFF, 0xFF0F] =
      some ({ vsCpu with ime := false, pc := 0xC001 }, 4, [0x04, 0x04]) := by decide

/-- V193: `HALT`, IME=1: dispatched in the same step, return address 0xC001. -/
theorem test_v193_halt :
    see (vs [0x76] { vsCpu with ime := true } [] 0x04 0x04) [0xDFEE, 0xDFEF, 0xFF0F, 0xFFFF] =
      some ({ vsCpu with ime := false, sp := 0xDFEE, pc := 0x0050 }, 4, [0x01, 0xC0, 0x00, 0x04]) := by decide

/-- V219: `(no fetch: halted step)`, pending but not enabled: stays halted; 4 idle cycles. -/
theorem test_v219_haltedStep :
    see (vs [] { vsCpu with halted := true } [] 0x04 0x01) [0xFFFF, 0xFF0F] =
      some ({ vsCpu with halted := true, pc := 0xC000 }, 4, [0x04, 0x01]) := by decide

/-- V194: `STOP`, two bytes. -/
theorem test_v194_stop :
    see (vs [0x10, 0x00]) [] =
      some ({ vsCpu with stopped := true, pc := 0xC002 }, 4, []) := by decide

/-- V196: `DI`. -/
theorem test_v196_di :
    see (vs [0xF3] { vsCpu with ime := true }) [] =
      some ({ vsCpu with ime := false, pc := 0xC001 }, 4, []) := by decide

/-- V198: `EI`, IME still 0 after the EI step. -/
theorem test_v198_ei : see (vs [0xFB]) [] = some ({ vsCpu with imePending := true, pc := 0xC001 }, 4, []) := by decide

/-- V202: `ILLEGAL_D3`, no state change except faulted. -/
theorem test_v202_illegalD3 :
    faultOf (vs [0xD3]) =
      some (0xD3, 0xC000, { vsCpu with faulted := true, pc := 0xC000 }) := by decide

/-- V203: `ILLEGAL_FD`, fault wins over the pending interrupt: no dispatch. -/
theorem test_v203_illegalFD :
    faultOf (vs [0xFD] { vsCpu with ime := true } [] 0x01 0x01) =
      some (0xFD, 0xC000, { vsCpu with ime := true, faulted := true, pc := 0xC000 }) := by decide

/-! ### The address map, the mapper, the devices, the host's operations -/

/-- M1: a write to work RAM, read through the echo. -/
theorem test_m1_echo : (State.reset.memWrite 0xC123 0xAB).memRead 0xE123 = 0xAB := by decide

/-- M3: the unusable region reads 0xFF after a write. -/
theorem test_m3_unusable : (State.reset.memWrite 0xFEA0 0x12).memRead 0xFEA0 = 0xFF := by decide

/-- M9, M11: STAT keeps its low bits under a write, LY ignores one. -/
theorem test_m9_stat_m11_ly :
    (State.reset.memWrite 0xFF41 0xFF).memRead 0xFF41 = 0xFE ∧ (State.reset.memWrite 0xFF44 0x55).memRead 0xFF44 = 0x00 := by
  decide

/-- M14: the first byte of a copy from the I/O block is P1 as read. -/
theorem test_m14_dma : (State.reset.dmaCopy 0xFF 1).memRead 0xFE00 = 0xFF := by decide +kernel

/-- The reset state with the MBC1 cartridge of vectors B1 to B16 and mapper registers `m`; the first byte of each bank is its
number. -/
def mbc1State (m : Mapper) : State :=
  { State.reset with
    cart :=
      { rom := [(0x4000, 1), (0x8000, 2), (0xC000, 3), (0x10000, 4), (0x14000, 5), (0x18000, 6), (0x1C000, 7)]
        romLength := 0x20000
        kind := .mbc1
        romBanks := 8
        ramBanks := 4 }
    mapper := m }

/-- B5: bank 8 modulo 8 shows bank 0 in the switchable window; B6: bank 10 shows bank 2. -/
theorem test_b5_b6_rom_bank :
    ((mbc1State (Mapper.reset .mbc1)).memWrite 0x2000 0x08).memRead 0x4000 = 0x00 ∧
      ((mbc1State (Mapper.reset .mbc1)).memWrite 0x2000 0x0A).memRead 0x4000 = 0x02 := by decide

/-- B15: low nibble 0xB disables cartridge RAM. -/
theorem test_b15_ram_disable :
    ((mbc1State { Mapper.reset .mbc1 with ramEnable := true }).memWrite 0x0000 0x0B).memRead 0xA000 = 0xFF := by decide

/-- L7: after 456 cycles line 1 begins in mode 2, and LY differs from LYC, so STAT[2] is cleared. -/
theorem test_l7_new_line :
    (State.lcdTick { State.reset with lcd := { Lcd.reset with stat := 0x04, lineCount := 455 } }).lcd =
      { Lcd.reset with stat := 0x02, ly := 1, lineCount := 0 } := by decide

/-- L10: line 144 enters mode 1 and requests V-Blank. -/
theorem test_l10_vblank :
    (State.lcdTick { State.reset with lcd := { Lcd.reset with stat := 0x00, ly := 143, lineCount := 455 } }).irq.iflag = 0x01 := by
  decide

/-- T2: TIMA overflows, reloads TMA and requests the Timer interrupt; T6: 62 periods of 16 in 1004 counted cycles. -/
theorem test_t2_t6_timer :
    (State.timerTick 4 { State.reset with timer := { Timer.reset with tac := 5, tima := 0xFF, timaCount := 12 } }).irq.iflag = 4 ∧
      (State.timerTick 4 { State.reset with timer := { Timer.reset with tac := 5, timaCount := 1000 } }).timer.tima = 62 := by
  decide +kernel

/-- J5: Right and Start pressed, both groups selected. -/
theorem test_j5_p1 : ({ select := 0, keys := 0x81 } : Joypad).p1 = 0xC6 := by decide

/-- J2: a new press requests the Joypad interrupt. -/
theorem test_j2_input : ((State.reset.input .right true).input .start true).irq.iflag = 0x10 := by decide

/-- The host's placing of a word: the next step from reset runs it (log entry 11). -/
theorem test_with_fetch_word :
    see (State.reset.withFetchWord 8 0x04) [] = some ({ Cpu.reset with b := 0x01, f := 0x10, pc := 0x0101 }, 4, []) := by
  decide

/-- The memory of the machine right after reset is in canonical form. -/
theorem test_reset_stored : State.reset.Stored :=
  ⟨by decide, by decide, by decide, by decide, by decide, by decide, by decide⟩

/-- The invariant holds right after reset. -/
theorem test_reset_inv : State.reset.Inv :=
  ⟨test_reset_stored, by decide, ⟨by decide, by decide, by decide⟩, by decide, by decide, by decide, by decide, by decide⟩

/-! ### Witnesses: for each obligation with hypotheses, values that meet them -/

theorem vs_stored : (vs [0x00]).Stored := ⟨by decide, by decide, by decide, by decide, by decide, by decide, by decide⟩

theorem witness_ResetGivesCpuRegisters :
    State.powerOn Cartridge.blank Rams.blank ∈ [State.powerOn Cartridge.blank Rams.blank, (vs [0x00]).hostReset] :=
  List.mem_cons_self

theorem witness_ResetGivesDeviceRegisters :
    (vs [0x00]).hostReset ∈ [State.powerOn Cartridge.blank Rams.blank, (vs [0x00]).hostReset] := by
  exact List.mem_cons_of_mem _ List.mem_cons_self

theorem witness_LoadedMachineMeetsInvariant :
    Cartridge.blank.rom.within 0 Cartridge.blank.romLength = true ∧
      Rams.Fits { Rams.blank with vram := [(0x9FFF, 0x01)], hram := [(0xFFFE, 0x02)] } Cartridge.blank.ramBanks :=
  ⟨by decide, by decide, by decide, by decide, by decide, by decide⟩

/-- An image of header length: mapper type `kind`, RAM size `ram`. -/
def image (kind ram : Byte) : List Byte := List.replicate 0x147 0 ++ [kind, 0, ram] ++ List.replicate 6 0

theorem image_length (kind ram : Byte) : (image kind ram).length = 0x150 := by
  simp [image, -List.reduceReplicate]

theorem image_kind (kind ram : Byte) : (image kind ram).getD 0x147 0 = kind := by
  simp [image, -List.reduceReplicate, List.getD_eq_getElem?_getD]

theorem image_ram (kind ram : Byte) : (image kind ram).getD 0x149 0 = ram := by
  simp [image, -List.reduceReplicate, List.getD_eq_getElem?_getD]

theorem witness_LoadReadsHeader_truncated : (List.replicate 0x14F (0 : Byte)).length < 0x150 := by
  rw [List.length_replicate]
  decide

theorem witness_LoadReadsHeader_unsupported :
    0x150 ≤ (image 4 0).length ∧ 4 ≤ ((image 4 0).getD 0x147 0).toNat := by
  rw [image_length, image_kind]
  decide

theorem witness_LoadReadsHeader_error : loadRom [] Rams.blank = .error .truncatedHeader := by rfl

theorem witness_LoadReadsHeader_loads :
    0x150 ≤ (image 3 3).length ∧ ((image 3 3).getD 0x147 0).toNat ≤ 3 ∧ ((image 3 3).getD 0x149 0).toNat ≤ 3 := by
  rw [image_length, image_kind, image_ram]
  decide

theorem witness_DecodeOfEncodeIsIdentity : (Instr.popRr .hl).wf = true := by decide

theorem witness_AddThenDecimalAdjustIsDecimalSum :
    (99 : Nat) < 100 ∧ (0 : Nat) < 100 ∧
      (vs [0xC6, 0x00] { vsCpu with a := 0x99 }).cpu.a = BitVec.ofNat 8 (16 * (99 / 10) + 99 % 10) := by decide

theorem witness_IllegalBytesFault : ((.illegalFD, 0xFD) : Instr × Byte) ∈ [(Instr.illegalD3, (0xD3 : Byte)), (.illegalFD, 0xFD)] := by
  decide

theorem witness_FlagTable : Instr.scf.wf = true ∧ ∃ t, exec .scf (vs [0x37]) = .next t := ⟨rfl, _, rfl⟩

theorem witness_CyclesDependOnlyOnPath_condition :
    (∀ k, testsCondition (.retCc .z) k →
        holds (vs [0xC8]).cpu.f k = holds (vs [0xC8] { vsCpu with f := 0x10 }).cpu.f k) ∧
      (∃ t, exec (.retCc .z) (vs [0xC8]) = .next t) ∧ ∃ t, exec (.retCc .z) (vs [0xC8] { vsCpu with f := 0x10 }) = .next t := by
  refine ⟨fun k h => ?_, ⟨_, rfl⟩, ⟨_, rfl⟩⟩
  have hk : k = .z := by simpa [testsCondition, eq_comm] using h
  subst hk
  rfl

theorem witness_CyclesDependOnlyOnPath_no_condition :
    (∀ k, testsCondition .nop k → holds (vs [0x00]).cpu.f k = holds (vs [0x00] { vsCpu with f := 0xF0 }).cpu.f k) ∧
      (∃ t, exec .nop (vs [0x00]) = .next t) ∧ ∃ t, exec .nop (vs [0x00] { vsCpu with f := 0xF0 }) = .next t :=
  ⟨fun k h => by simp [testsCondition] at h, ⟨_, rfl⟩, ⟨_, rfl⟩⟩

theorem vs_running (code : List Byte) : (vs code).Running := ⟨rfl, rfl, rfl⟩

theorem witness_StepRunsTheDecodedInstruction :
    (vs [0xC3, 0x50, 0x01]).Running ∧ (Instr.jpA16 0x0150).wf = true ∧
      ∀ k < (Instr.jpA16 0x0150).size, (vs [0xC3, 0x50, 0x01]).memRead ((vs [0xC3, 0x50, 0x01]).cpu.pc + BitVec.ofNat 16 k) =
        (encode (.jpA16 0x0150)).getD k 0 :=
  ⟨vs_running _, rfl, by decide⟩

theorem witness_StepFaultsExactlyOnIllegalByte_fault :
    (vs [0xFD]).Running ∧ (vs [0xFD]).memRead (vs [0xFD]).cpu.pc ∈ illegalBytes := ⟨vs_running _, by decide⟩

theorem witness_StepFaultsExactlyOnIllegalByte_next :
    (vs [0xF3]).Running ∧ (vs [0xF3]).memRead (vs [0xF3]).cpu.pc ∉ illegalBytes := ⟨vs_running _, by decide⟩

theorem witness_StoppedIdlesAndFaultedHasNoStep_faulted : (vs [0x00] { vsCpu with faulted := true }).cpu.faulted = true := rfl

theorem witness_StoppedIdlesAndFaultedHasNoStep_stopped :
    (vs [0x00] { vsCpu with stopped := true }).cpu.faulted = false ∧ (vs [0x00] { vsCpu with stopped := true }).cpu.stopped = true :=
  ⟨rfl, rfl⟩

theorem witness_StoppedIdlesAndFaultedHasNoStep_fault : ∃ t, step (vs [0xD3]) = .fault (.illegalOpcode 0xD3 0xC000 t) := ⟨_, rfl⟩

/-- The machine that a halted step of `s` leaves once its devices are clocked. -/
def haltedClocked (s : State) : State :=
  State.clockDevices 4 { s with
    cpu := { s.cpu with ime := s.cpu.ime || s.cpu.imePending, imePending := false }
    out := { StepOut.empty with cycles := 4 } }

theorem witness_HaltedStepIdlesAndWakes_masked :
    let s := vs [0x00] { vsCpu with halted := true } [] 0x04 0x04
    s.cpu.faulted = false ∧ s.cpu.stopped = false ∧ s.cpu.halted = true ∧ (s.cpu.ime || s.cpu.imePending) = false ∧
      (haltedClocked s).pendingNow ≠ 0 := by
  decide

theorem witness_HaltedStepIdlesAndWakes_nothing_pending :
    let s := vs [0x00] { vsCpu with halted := true, ime := true } [] 0x00 0x1F
    s.cpu.faulted = false ∧ s.cpu.stopped = false ∧ s.cpu.halted = true ∧ (haltedClocked s).pendingNow = 0 := by
  decide

theorem witness_HaltedStepIdlesAndWakes_dispatch :
    let s := vs [0x00] { vsCpu with halted := true, ime := true } [] 0x1F 0x1F
    s.cpu.faulted = false ∧ s.cpu.stopped = false ∧ s.cpu.halted = true ∧ (s.cpu.ime || s.cpu.imePending) = true ∧
      (haltedClocked s).pendingNow.toNat / 2 ^ 0 % 2 = 1 ∧ (haltedClocked s).pendingNow.toNat % 2 ^ 0 = 0 := by
  decide

theorem witness_HaltedStepIdlesAndWakes_pending_ei :
    let s := vs [0x00] { vsCpu with halted := true, imePending := true } [] 0x10 0x10
    s.cpu.faulted = false ∧ s.cpu.stopped = false ∧ s.cpu.halted = true ∧ (s.cpu.ime || s.cpu.imePending) = true ∧
      (haltedClocked s).pendingNow.toNat / 2 ^ 4 % 2 = 1 ∧ (haltedClocked s).pendingNow.toNat % 2 ^ 4 = 0 := by
  decide

theorem witness_HaltedWithNothingEnabledIsPermanent :
    let s := vs [0x00] { vsCpu with halted := true, ime := true } [] 0xE0 0xFF
    s.cpu.faulted = false ∧ s.cpu.stopped = false ∧ s.cpu.halted = true ∧ s.cpu.imePending = false ∧ s.irq.ie &&& 0x1F = 0 := by
  decide

theorem witness_DispatchTakesHighestPriority_first :
    let t := vs [0x00] { vsCpu with ime := true } [] 0x1F 0x1F
    t.cpu.ime = true ∧ t.cpu.stopped = false ∧ t.pendingNow.toNat / 2 ^ 0 % 2 = 1 ∧ t.pendingNow.toNat % 2 ^ 0 = 0 := by
  decide

theorem witness_DispatchTakesHighestPriority_last :
    let t := vs [0x00] { vsCpu with ime := true } [] 0x1F 0xF0
    t.cpu.ime = true ∧ t.cpu.stopped = false ∧ t.pendingNow.toNat / 2 ^ 4 % 2 = 1 ∧ t.pendingNow.toNat % 2 ^ 4 = 0 := by
  decide

theorem witness_DispatchTakesHighestPriority_none :
    (vs [0x00]).cpu.ime = false ∧ (vs [0x00] { vsCpu with stopped := true }).cpu.stopped = true ∧
      (vs [0x00] vsCpu [] 0xE0 0xFF).pendingNow = 0 := by decide

theorem witness_EiTakesEffectAfterTheNextInstruction_ei :
    (vs [0xFB]).Running ∧ (vs [0xFB]).cpu.ime = false ∧ (vs [0xFB]).cpu.imePending = false ∧
      (vs [0xFB]).memRead (vs [0xFB]).cpu.pc = 0xFB := ⟨vs_running _, rfl, rfl, by decide⟩

theorem witness_EiTakesEffectAfterTheNextInstruction_di :
    let s := vs [0xF3] { vsCpu with imePending := true }
    s.Running ∧ s.cpu.ime = false ∧ s.cpu.imePending = true ∧ s.memRead s.cpu.pc = 0xF3 :=
  ⟨⟨rfl, rfl, rfl⟩, rfl, rfl, by decide⟩

theorem witness_EiTakesEffectAfterTheNextInstruction_other :
    let s := vs [0x00] { vsCpu with imePending := true }
    s.Running ∧ s.cpu.ime = false ∧ s.cpu.imePending = true ∧ s.memRead s.cpu.pc ≠ 0xF3 ∧ ∃ t, step s = .next t :=
  ⟨⟨rfl, rfl, rfl⟩, rfl, rfl, by decide, _, rfl⟩

theorem witness_OnlyRetiAndEiSetIme :
    (see (vs [0xD9]) []).map (·.1.ime) = some true ∧ (vs [0xD9]).cpu.ime = false ∧
      (see (vs [0x00] { vsCpu with imePending := true }) []).map (·.1.ime) = some true := by decide

theorem witness_ReturnUndoesCallAndDispatch :
    (vs [0x00] { vsCpu with sp := 0xC002 }).Stored ∧ 0xC002 ≤ (vs [0x00] { vsCpu with sp := 0xC002 }).cpu.sp.toNat ∧
      (vs [0x00] { vsCpu with sp := 0xE000 }).cpu.sp.toNat ≤ 0xE000 :=
  ⟨⟨by decide, by decide, by decide, by decide, by decide, by decide, by decide⟩, by decide, by decide⟩

theorem witness_StepKeepsInvariant : State.reset.Inv ∧ ∃ t, step State.reset = .next t := ⟨test_reset_inv, _, rfl⟩

theorem witness_ReachedStatesMeetInvariant :
    State.reset.Inv ∧ Reaches State.reset (State.reset.input .a true).hostReset :=
  ⟨test_reset_inv, .after .reset (.after (.input .a true) .here rfl) rfl⟩

theorem witness_RomIsImmutable :
    Reaches State.reset (State.reset.writeMemory 0x7FFF 0x12) ∧ (0x7FFF : Word).toNat < 0x8000 ∧ (0x3FFF : Word).toNat < 0x4000 :=
  ⟨.after (.writeMemory 0x7FFF 0x12) .here rfl, by decide, by decide⟩

theorem witness_RamReadsBackWhatWasWritten_regions :
    (vs [0x00]).Stored ∧ ∀ k < 6, let a : Word := [0x8000, 0x9FFF, 0xC000, 0xFE9F, 0xFF80, 0xFFFF].getD k 0
      (0x8000 ≤ a.toNat ∧ a.toNat < 0xA000) ∨ (0xC000 ≤ a.toNat ∧ a.toNat < 0xFEA0) ∨ 0xFF80 ≤ a.toNat :=
  ⟨vs_stored, by decide⟩

theorem witness_RamReadsBackWhatWasWritten_echo :
    (vs [0x00]).Stored ∧ ∀ k < 2, let a : Word := [0xE000, 0xFDFF].getD k 0
      0xE000 ≤ a.toNat ∧ a.toNat < 0xFE00 ∧ touches a (a + 1) = false :=
  ⟨vs_stored, by decide⟩

theorem witness_UnmappedReadsSentinel_addresses :
    ∀ k < 11, let a : Word := [0xFEA0, 0xFEFF, 0xFF03, 0xFF08, 0xFF0E, 0xFF15, 0xFF1F, 0xFF27, 0xFF2F, 0xFF4C, 0xFF7F].getD k 0
      (0xFEA0 ≤ a.toNat ∧ a.toNat < 0xFF00) ∨ a.toNat = 0xFF03 ∨ (0xFF08 ≤ a.toNat ∧ a.toNat ≤ 0xFF0E) ∨ a.toNat = 0xFF15 ∨
        a.toNat = 0xFF1F ∨ (0xFF27 ≤ a.toNat ∧ a.toNat ≤ 0xFF2F) ∨ (0xFF4C ≤ a.toNat ∧ a.toNat ≤ 0xFF7F) := by decide

theorem witness_UnmappedReadsSentinel_cartridge_ram :
    ∀ k < 2, let a : Word := [0xA000, 0xBFFF].getD k 0
      0xA000 ≤ a.toNat ∧ a.toNat < 0xC000 ∧ State.reset.cart.kind = .romOnly ∧
      State.reset.cart.ramBanks = 0 ∧ (mbc1State (Mapper.reset .mbc1)).cart.kind = .mbc1 ∧
      (mbc1State (Mapper.reset .mbc1)).mapper.ramEnable = false := by decide

theorem witness_UnmappedReadsSentinel_rom :
    let s : State := { State.reset with cart := { Cartridge.blank with romLength := 0x150 } }
    (0x3FFF : Word).toNat < 0x4000 ∧ s.cart.romLength ≤ (0x3FFF : Word).toNat ∧ 0x4000 ≤ (0x4000 : Word).toNat ∧
      (0x4000 : Word).toNat < 0x8000 ∧ s.cart.kind = .romOnly ∧ s.cart.romLength ≤ (0x4000 : Word).toNat := by decide

theorem witness_UnmappedReadsSentinel_mbc1_rom :
    let s : State := { mbc1State { Mapper.reset .mbc1 with bankLo := 31, bankHi := 3 } with
      cart := { Cartridge.blank with kind := .mbc1, romBanks := 128, romLength := 127 * 0x4000 } }
    ∀ k < 2, let a : Word := [0x4000, 0x7FFF].getD k 0
      0x4000 ≤ a.toNat ∧ a.toNat < 0x8000 ∧ s.cart.kind = .mbc1 ∧
        s.cart.romLength ≤ (s.mapper.bankLo.toNat + (if s.mapper.bankMode then 0 else 32 * s.mapper.bankHi.toNat)) %
          s.cart.romBanks * 0x4000 + (a.toNat - 0x4000) := by decide

/-- With an empty image every offset of a supplied mapper's window is beyond it, whatever bank the mapper selects. -/
theorem witness_UnmappedReadsSentinel_supplied_rom :
    let s : State := { State.reset with cart := { Cartridge.blank with kind := .supplied 0x05, romLength := 0 } }
    0x4000 ≤ (0x4000 : Word).toNat ∧ (0x4000 : Word).toNat < 0x8000 ∧ s.cart.kind = .supplied 0x05 ∧
      s.cart.romLength ≤ Config.mapperRomBank 0x05 s.mapper.supplied * 0x4000 + ((0x4000 : Word).toNat - 0x4000) :=
  ⟨by decide, by decide, rfl, Nat.zero_le _⟩

theorem witness_RomBankSelection :
    (∀ k < 8, let a : Word := [0x0000, 0x1FFF, 0x2000, 0x3FFF, 0x4000, 0x5FFF, 0x6000, 0x7FFF].getD k 0
      a.toNat < 0x8000) ∧
      State.reset.cart.kind = .romOnly ∧ (mbc1State (Mapper.reset .mbc1)).cart.kind = .mbc1 := by decide

theorem witness_CartridgeRamIsBankedStorage :
    let s := mbc1State { Mapper.reset .mbc1 with ramEnable := true, bankMode := true, bankHi := 2 }
    s.Stored ∧ s.cart.kind = .mbc1 ∧ 0 < s.cart.ramBanks ∧ s.mapper.ramEnable = true ∧ 0xA000 ≤ (0xBFFF : Word).toNat ∧
      (0xBFFF : Word).toNat < 0xC000 :=
  ⟨⟨by decide, by decide, by decide, by decide, by decide, by decide, by decide⟩, by decide, by decide, by decide, by decide,
    by decide⟩

theorem witness_DmaCopiesOnePage : (vs [0x00]).Stored ∧ (159 : Nat) < 160 ∧ 256 * (0xFF : Byte).toNat + 0x46 = 0xFF46 :=
  ⟨vs_stored, by decide, by decide⟩

theorem witness_DeviceRegisterWrites :
    (vs [0x00]).Stored ∧ ∀ k < 8, let a : Word := [0xFF10, 0xFF14, 0xFF16, 0xFF1E, 0xFF20, 0xFF26, 0xFF30, 0xFF3F].getD k 0
      (0xFF10 ≤ a.toNat ∧ a.toNat ≤ 0xFF14) ∨ (0xFF16 ≤ a.toNat ∧ a.toNat ≤ 0xFF1E) ∨
        (0xFF20 ≤ a.toNat ∧ a.toNat ≤ 0xFF26) ∨ (0xFF30 ≤ a.toNat ∧ a.toNat ≤ 0xFF3F) := ⟨vs_stored, by decide⟩

/-- The reset state at a line and a position, in the mode of the timing table. -/
def atPosition (line position : Nat) : State :=
  { State.reset with
    lcd := { Lcd.reset with stat := (modeAt line position).zeroExtend 8, ly := BitVec.ofNat 8 line, lineCount := position } }

theorem witness_LcdFollowsTheTimingTable : (atPosition 153 455).lcd.Synced ∧ (atPosition 0 0).lcd.Synced :=
  ⟨⟨by decide, by decide, by decide⟩, ⟨by decide, by decide, by decide⟩⟩

theorem witness_LcdRequestsInterrupts :
    (atPosition 143 455).lcd.Synced ∧ (atPosition 143 245).lcd.Synced ∧ (atPosition 144 455).lcd.Synced :=
  ⟨⟨by decide, by decide, by decide⟩, ⟨by decide, by decide, by decide⟩, ⟨by decide, by decide, by decide⟩⟩

theorem witness_OneScanlinePerVisibleLine :
    (atPosition 143 0).lcd.Synced ∧ (atPosition 143 0).lcd.lineCount = 0 ∧ (atPosition 143 0).lcd.ly.toNat < 144 ∧
      (atPosition 144 0).lcd.Synced ∧ (atPosition 144 0).lcd.lineCount = 0 ∧ 144 ≤ (atPosition 144 0).lcd.ly.toNat :=
  ⟨⟨by decide, by decide, by decide⟩, by decide, by decide, ⟨by decide, by decide, by decide⟩, by decide, by decide⟩

theorem witness_InputEvents :
    bitAt (vs [0x00]).joypad.keys.toNat 0 = 0 ∧ bitAt ((vs [0x00]).input .start true).joypad.keys.toNat 7 = 1 := by decide

theorem witness_SnapshotResumesExactly_running :
    (State.reset.input .a true).cart = State.reset.cart ∧ (State.reset.input .a true).cpu.faulted = false := ⟨by rfl, by rfl⟩

theorem witness_SnapshotResumesExactly_faulted :
    let s := vs [0x00]
    let later := vs [0x00] { vsCpu with faulted := true }
    later.cart = s.cart ∧ later.cpu.faulted = true ∧ s.cpu.faulted = false := by decide

/-- 10_state.md R31: a snapshot taken before the fault does not make a faulted machine run again. -/
theorem test_restore_keeps_fault :
    ((vs [0x00] { vsCpu with faulted := true }).deserialize (vs [0x00]).serialize).cpu.faulted = true := by decide

end Sys2Proof.Tests
end

section
/-! What a step keeps: the invariant `State.Inv`, phase by phase (60_exceptions.md R401). -/

namespace Sys2Proof.Machine

/-! ### The invariant under the shared operations -/

/-- Whether the stores are canonical depends on the memories, the cartridge and the APU's registers only. -/
theorem State.Stored.congr {s t : State} (h : s.Stored) (ram : t.ram = s.ram) (cart : t.cart = s.cart)
    (regs : t.apu.regs = s.apu.regs) : t.Stored := by
  obtain ⟨hvram, hcartRam, hwram, hoam, hhram, hapu, hrom⟩ := h
  constructor <;> simp only [ram, cart, regs]
  exacts [hvram, hcartRam, hwram, hoam, hhram, hapu, hrom]

/-- The invariant sees nothing of the CPU but F's low nibble and the two power bits, and nothing of the outputs. -/
theorem State.Inv.reframe {s : State} (h : s.Inv) {c : Cpu} (o : StepOut) (flags : c.f.extractLsb' 0 4 = 0)
    (power : (c.halted && c.stopped) = false) : (s.reframe c o).Inv := by
  obtain ⟨hst, -, hlcd, hal, hdiv, htima, hbank, -⟩ := h
  exact ⟨hst.congr rfl rfl rfl, flags, hlcd, hal, hdiv, htima, hbank, power⟩

/-- The invariant does not see IF. -/
theorem State.Inv.setIflag {s : State} (h : s.Inv) (v : Byte) :
    ({ s with irq := { s.irq with iflag := v } } : State).Inv := by
  obtain ⟨hst, hf, hlcd, hal, hdiv, htima, hbank, hpow⟩ := h
  exact ⟨hst.congr rfl rfl rfl, hf, hlcd, hal, hdiv, htima, hbank, hpow⟩

/-- No memory write takes the LCD controller off its timing table (60_exceptions.md R447). -/
theorem WriteKeeps.synced {s t : State} (k : WriteKeeps s t) (h : s.lcd.Synced) : t.lcd.Synced := by
  obtain ⟨hline, hpos, hmode⟩ := h
  exact ⟨by rw [k.ly]; exact hline, by rw [k.lineCount]; exact hpos, by rw [k.mode, k.ly, k.lineCount]; exact hmode⟩

theorem State.memWrite_inv {s : State} (h : s.Inv) (a : Word) (v : Byte) : (s.memWrite a v).Inv := by
  have k := State.memWrite_keeps s a v
  refine ⟨State.memWrite_stored h.stored a v, ?_, k.synced h.lcd, ?_, ?_, ?_, State.memWrite_bankLo h.bankLo a v, ?_⟩
  · rw [State.memWrite_cpu]; exact h.flags
  · rw [k.lineCount]; exact h.aligned
  · have := h.divCount
    rcases k.divCount with e | e <;> omega
  · rw [k.timaCount]; exact h.timaCount
  · rw [State.memWrite_cpu]; exact h.power

theorem State.storeAll_inv {s : State} (h : s.Inv) (ws : List (Word × Byte)) : (s.storeAll ws).Inv := by
  induction ws generalizing s with
  | nil => exact h
  | cons w rest ih => exact ih (State.memWrite_inv h w.1 w.2)

/-- An instruction that completes keeps the invariant: the fetching machine is neither halted nor stopped, and no
instruction sets both bits. -/
theorem exec_inv {i : Instr} {s t : State} (h : s.Inv) (halted : s.cpu.halted = false) (stopped : s.cpu.stopped = false)
    (run : exec i s = .next t) : t.Inv := by
  have e := exec_next run
  obtain ⟨ws, n, ht, -⟩ := e.writes
  rw [ht]
  refine (State.storeAll_inv h ws).reframe _ (e.flags h.flags) ?_
  rw [Bool.and_eq_false_iff]
  rcases e.halted with hh | ⟨rfl, -⟩
  · exact .inl (hh.trans halted)
  · rcases e.stopped with hs | ⟨⟨pad, hi⟩, -⟩
    · exact .inr (hs.trans stopped)
    · cases hi

/-! ### The invariant under the phases of a step -/

/-- `n` clocks keep the position in the line a multiple of 4 where `n` is one: a line has 456 = 4 * 114 positions and
a frame 70224 = 4 * 17556. -/
theorem State.lcdClock_aligned {n : Nat} {s : State} (h : s.lcd.Synced) (hn : n % 4 = 0)
    (aligned : s.lcd.lineCount % 4 = 0) : (State.lcdClock n s).lcd.lineCount % 4 = 0 := by
  have := State.lcdClock_position n h
  omega

theorem State.lcdClock_timer (n : Nat) (s : State) : (State.lcdClock n s).timer = s.timer := by
  rw [State.lcdClock_shape n s]

theorem State.clockDevices_inv {n : Nat} {s : State} (h : s.Inv) (hn : n % 4 = 0) : (State.clockDevices n s).Inv := by
  obtain ⟨hst, hf, hlcd, hal, -, htima, hbank, hpow⟩ := h
  have counters : (State.clockDevices n s).timer.divCount < 256 ∧ (State.clockDevices n s).timer.timaCount < 1024 :=
    State.timerTick_counters n (by rw [State.lcdClock_timer]; exact htima)
  rw [State.clockDevices_shape]
  exact ⟨hst.congr rfl rfl rfl, hf, State.lcdClock_synced n hlcd,
    State.lcdClock_aligned hlcd hn hal, counters.1, counters.2, hbank, hpow⟩

theorem State.promoteEi_inv {s : State} (h : s.Inv) (fire : Bool) : (s.promoteEi fire).Inv := by
  rcases State.promoteEi_cases fire s with ⟨e, -⟩ | ⟨-, -, e⟩
  · rw [e]; exact h
  · rw [e]; exact h.reframe _ h.flags h.power

theorem State.wakeCheck_inv {s : State} (h : s.Inv) : s.wakeCheck.Inv := by
  rcases State.wakeCheck_cases s with e | ⟨-, -, -, e⟩
  · rw [e]; exact h
  · rw [e]; exact h.reframe _ h.flags rfl

theorem State.takeInterrupt_inv {s : State} (h : s.Inv) (k : Nat) : (s.takeInterrupt k).Inv := by
  rw [State.takeInterrupt_eq]
  exact (State.storeAll_inv (h.setIflag _) _).reframe _ h.flags rfl

theorem State.dispatchCheck_inv {s : State} (h : s.Inv) : s.dispatchCheck.Inv := by
  rcases State.dispatchCheck_cases s with e | ⟨-, -, -, e⟩
  · rw [e]; exact h
  · rw [e]; exact State.takeInterrupt_inv h _

@[simp] theorem State.promoteEi_out (fire : Bool) (s : State) : (s.promoteEi fire).out = s.out := by
  rcases State.promoteEi_cases fire s with ⟨e, -⟩ | ⟨-, -, e⟩
  · rw [e]
  · rw [e, State.reframe_out]

/-- Steps 4 to 7 keep the invariant after an operation of a multiple of 4 cycles. -/
theorem State.finishStep_inv {s : State} (h : s.Inv) (cycles : s.out.cycles % 4 = 0) (fire : Bool) :
    (s.finishStep fire).Inv :=
  State.dispatchCheck_inv (State.wakeCheck_inv (State.clockDevices_inv (State.promoteEi_inv h fire) (by simpa using cycles)))

/-- The cycle count of an instruction that completes is a multiple of 4 (70_reset_and_hazards.md R530, R531). -/
theorem exec_cycles_mod_four {i : Instr} {s t : State} (run : exec i s = .next t) : t.out.cycles % 4 = 0 := by
  obtain ⟨ws, n, ht, hn, -⟩ := (exec_next run).writes
  rw [ht]
  exact hn

/-- Every step keeps the invariant. -/
theorem step_inv {s t : State} (h : s.Inv) (run : step s = .next t) : t.Inv := by
  have begun : s.beginStep.Inv := h.reframe _ h.flags h.power
  obtain ⟨-, ⟨-, rfl⟩ | ⟨-, -, rfl⟩ | ⟨stopped, halted, u, hu, rfl⟩⟩ := step_next run
  · exact begun
  · have idle : s.beginStep.idle.Inv := begun.reframe _ h.flags h.power
    have cycles : Config.idleCycles % 4 = 0 := by decide
    exact State.finishStep_inv idle cycles _
  · have fetched : (s.beginStep.advancePc (s.fetchAt s.cpu.pc)).Inv := begun.reframe _ h.flags h.power
    exact State.finishStep_inv (exec_inv fetched halted stopped hu) (exec_cycles_mod_four hu) _

/-- Settles O44: each phase of the step keeps the invariant, the devices because an operation takes a multiple of 4
cycles. -/
theorem stepKeepsInvariant : Obligations.StepKeepsInvariant :=
  fun _ _ => step_inv

end Sys2Proof.Machine
end

section
/-! The flag table of 10_state.md R26, row by row. -/

namespace Sys2Proof.Machine

/-- What a row of the table says of F before and after. -/
def FlagRow.agrees (row : FlagRow) (before after : Byte) : Prop :=
  row.z.agrees (zOf before) (zOf after) ∧ row.n.agrees (nOf before) (nOf after) ∧
    row.h.agrees (hOf before) (hOf after) ∧ row.c.agrees (cOf before) (cOf after)

/-! ### The operations that leave F alone -/

theorem State.setReg_f (s : State) (r : Reg8) (v : Byte) : (s.setReg r v).cpu.f = s.cpu.f := by
  rw [State.setReg_eq]
  exact (Cpu.put_keeps _ _ _).2.1

theorem State.setPair_f (s : State) (p : Pair) (v : Word) : (s.setPair p v).cpu.f = s.cpu.f := by
  rw [State.setPair_eq]
  exact (Cpu.putPair_keeps _ _ _).2.1

theorem State.setStackPair_f (s : State) {p : StackPair} (hp : p ≠ .af) (v : Word) :
    (s.setStackPair p v).cpu.f = s.cpu.f := by
  cases p
  case af => exact absurd rfl hp
  all_goals rfl

theorem State.memWrite_f (s : State) (a : Word) (v : Byte) : (s.memWrite a v).cpu.f = s.cpu.f := by
  rw [State.memWrite_cpu]

theorem State.memWrite16_f (s : State) (a v : Word) : (s.memWrite16 a v).cpu.f = s.cpu.f := by
  rw [State.memWrite16_eq, State.reframe_cpu]

theorem State.push16_f (s : State) (v : Word) : (s.push16 v).cpu.f = s.cpu.f := by
  rw [State.push16_eq, State.reframe_cpu]

/-! ### From F to the row -/

/-- An instruction whose row is `-` four times. -/
theorem agrees_of_f_kept {before after : Byte} (h : after = before) :
    FlagRow.agrees ⟨.kept, .kept, .kept, .kept⟩ before after := by
  subst h
  exact ⟨rfl, rfl, rfl, rfl⟩

/-- A conditional transfer keeps F if both its outcomes do. -/
theorem f_kept_of_branches {p : Prop} [Decidable p] {m n : Nat} {s taken untaken t : State}
    (run : (if p then finish m taken else finish n untaken) = .next t) (htaken : taken.cpu.f = s.cpu.f)
    (huntaken : untaken.cpu.f = s.cpu.f) : t.cpu.f = s.cpu.f := by
  split at run <;> cases run
  · exact htaken
  · exact huntaken

/-- An instruction that ends by writing all four flags: each is to be as its entry says. -/
theorem agrees_setFlags {row : FlagRow} {s u : State} {g : Flags} {n : Nat} (z : row.z.agrees s.flagZ g.z)
    (neg : row.n.agrees s.flagN g.n) (half : row.h.agrees s.flagH g.h) (c : row.c.agrees s.flagC g.c) :
    row.agrees s.cpu.f ((u.setFlags g).spend n).cpu.f := by
  have f : ((u.setFlags g).spend n).cpu.f = flagByte g.z g.n g.h g.c := toByte_eq_flagByte g
  rw [f, FlagRow.agrees, zOf_flagByte, nOf_flagByte, hOf_flagByte, cOf_flagByte, ← flagZ_eq, ← flagN_eq, ← flagH_eq,
    ← flagC_eq]
  exact ⟨z, neg, half, c⟩

/-- Every well-formed instruction that completes leaves the flags as its row says. -/
theorem exec_flagRow {i : Instr} {s t : State} (wf : i.wf = true) (run : exec i s = .next t) :
    (flagRow i).agrees s.cpu.f t.cpu.f := by
  cases i
  -- conditional transfers: F is kept whether the condition holds or not
  case jpCcA16 | jrCcE8 | retCc => exact agrees_of_f_kept (f_kept_of_branches run rfl rfl)
  case callCcA16 => exact agrees_of_f_kept (f_kept_of_branches run (State.push16_f _ _) rfl)
  all_goals cases run
  -- 8-bit arithmetic and logic
  case addAR | addAHl | addAD8 | adcAR | adcAHl | adcAD8 | subAR | subAHl | subAD8 | sbcAR | sbcAHl | sbcAD8 | cpAR
    | cpAHl | cpAD8 =>
    exact agrees_setFlags trivial rfl trivial trivial
  case andAR | andAHl | andAD8 | xorAR | xorAHl | xorAD8 | orAR | orAHl | orAD8 =>
    exact agrees_setFlags trivial rfl rfl rfl
  case incR | incHl | decR | decHl => exact agrees_setFlags trivial rfl trivial rfl
  case daa => exact agrees_setFlags trivial rfl rfl trivial
  case cpl | scf | ccf => exact agrees_setFlags rfl rfl rfl rfl
  -- 16-bit arithmetic
  case addHlRr => exact agrees_setFlags rfl rfl trivial trivial
  case addSpE8 | ldHlSpE8 => exact agrees_setFlags rfl rfl trivial trivial
  -- rotates, shifts and bit operations
  case rlca | rrca | rla | rra => exact agrees_setFlags rfl rfl rfl trivial
  case rlcR | rlcHl | rrcR | rrcHl | rlR | rlHl | rrR | rrHl | slaR | slaHl | sraR | sraHl | srlR | srlHl =>
    exact agrees_setFlags trivial rfl rfl trivial
  case swapR | swapHl => exact agrees_setFlags trivial rfl rfl rfl
  case bitR | bitHl => exact agrees_setFlags trivial rfl rfl rfl
  -- the pops
  case popAf => exact ⟨trivial, trivial, trivial, trivial⟩
  case popRr p => exact agrees_of_f_kept (State.setStackPair_f _ (by simpa [Instr.wf] using wf) _)
  -- registers and memory
  case ldRR | ldRHl | ldRD8 | resR | setR => exact agrees_of_f_kept (State.setReg_f _ _ _)
  case ldRrD16 | incRr | decRr => exact agrees_of_f_kept (State.setPair_f _ _ _)
  case ldHlR | ldHlD8 | resHl | setHl | ldHlIncA | ldHlDecA | ldBcA | ldDeA | ldhA8A | ldCA | ldA16A =>
    exact agrees_of_f_kept (State.memWrite_f _ _ _)
  case ldA16Sp => exact agrees_of_f_kept (State.memWrite16_f _ _ _)
  case pushRr | callA16 | rstT => exact agrees_of_f_kept (State.push16_f _ _)
  -- the rest writes A, HL, SP, pc or a control bit
  all_goals exact agrees_of_f_kept rfl

/-- Settles O33, by the case split of `exec_flagRow` over the instructions, one case per kind of row. -/
theorem flagTable : Obligations.FlagTable :=
  fun _ _ _ => exec_flagRow

end Sys2Proof.Machine
end

section
/-! What sets IME in a step (10_state.md R27). -/

namespace Sys2Proof.Machine

/-! ### The one byte that decodes to RETI -/

theorem decodeBlock0_ne_reti (b d1 d2 : Byte) : decodeBlock0 b d1 d2 ≠ .reti := by
  unfold decodeBlock0
  repeat' split
  all_goals nofun

theorem decodeBlock1_ne_reti (b : Byte) : decodeBlock1 b ≠ .reti := by
  unfold decodeBlock1
  split <;> nofun

theorem decodeAlu_ne_reti (y : BitVec 3) (r : Option Reg8) : decodeAlu y r ≠ .reti := by
  unfold decodeAlu
  split <;> nofun

theorem decodeAluImm_ne_reti (y : BitVec 3) (n : Byte) : decodeAluImm y n ≠ .reti := by
  unfold decodeAluImm
  split <;> nofun

theorem decodeShift_ne_reti (y : BitVec 3) (r : Option Reg8) : decodeShift y r ≠ .reti := by
  unfold decodeShift
  split <;> nofun

theorem decodeCb_ne_reti (b : Byte) : decodeCb b ≠ .reti := by
  unfold decodeCb
  split
  case h_1 => exact decodeShift_ne_reti _ _
  all_goals nofun

/-- In the last block RETI has z = 1, q = 1, p = 1 (30_encoding.md R130). -/
theorem decodeBlock3_reti {b d1 d2 : Byte} (h : decodeBlock3 b d1 d2 = .reti) :
    (opZ b).toNat = 1 ∧ opQ b = true ∧ (opP b).toNat = 1 := by
  unfold decodeBlock3 at h
  split at h
  case h_2 hz =>
    split at h
    case h_4 hq hp => exact ⟨hz, hq, hp⟩
    all_goals nomatch h
  case h_4 =>
    split at h
    case h_2 => exact absurd h (decodeCb_ne_reti _)
    all_goals nomatch h
  case h_7 => exact absurd h (decodeAluImm_ne_reti _ _)
  case h_8 => nomatch h
  all_goals
    split at h <;> nomatch h

theorem byte_of_reti_fields : ∀ b : Byte, (opX b).toNat ≠ 0 → (opX b).toNat ≠ 1 → (opX b).toNat ≠ 2 →
    (opZ b).toNat = 1 → opQ b = true → (opP b).toNat = 1 → b = 0xD9 := by
  decide

/-- No byte but 0xD9 decodes to RETI (45_control.md R349). -/
theorem decodeBytes_reti {b d1 d2 : Byte} (h : decodeBytes b d1 d2 = .reti) : b = 0xD9 := by
  unfold decodeBytes at h
  split at h
  case h_1 => exact absurd h (decodeBlock0_ne_reti _ _ _)
  case h_2 => exact absurd h (decodeBlock1_ne_reti _)
  case h_3 => exact absurd h (decodeAlu_ne_reti _ _)
  case h_4 h0 h1 h2 =>
    obtain ⟨hz, hq, hp⟩ := decodeBlock3_reti h
    exact byte_of_reti_fields b h0 h1 h2 hz hq hp

/-! ### IME after the phases of a step -/

@[simp] theorem State.clockDevices_cpu (n : Nat) (s : State) : (State.clockDevices n s).cpu = s.cpu := by
  rw [State.clockDevices_shape]

@[simp] theorem State.takeInterrupt_ime (s : State) (k : Nat) : (s.takeInterrupt k).cpu.ime = false := by
  rw [State.takeInterrupt_eq, State.reframe_cpu]

@[simp] theorem State.wakeCheck_ime (s : State) : s.wakeCheck.cpu.ime = s.cpu.ime := by
  rcases State.wakeCheck_cases s with e | ⟨-, -, -, e⟩
  · rw [e]
  · rw [e, State.reframe_cpu]

/-- The dispatch check sets no IME: it may only clear it (60_exceptions.md R405). -/
theorem State.ime_of_dispatchCheck {s : State} (h : s.dispatchCheck.cpu.ime = true) : s.cpu.ime = true := by
  rcases State.dispatchCheck_cases s with e | ⟨ime, -⟩
  · rwa [e] at h
  · exact ime

theorem State.ime_of_promoteEi {s : State} {fire : Bool} (h : (s.promoteEi fire).cpu.ime = true) :
    s.cpu.ime = true ∨ fire = true := by
  rcases State.promoteEi_cases fire s with ⟨e, -⟩ | ⟨hfire, -⟩
  · rw [e] at h
    exact .inl h
  · exact .inr hfire

/-- After the operation only the delayed effect of EI sets IME (60_exceptions.md R401 step 4). -/
theorem State.ime_of_finishStep {s : State} {fire : Bool} (h : (s.finishStep fire).cpu.ime = true) :
    s.cpu.ime = true ∨ fire = true := by
  have clocked := State.ime_of_dispatchCheck h
  rw [State.wakeCheck_ime, State.clockDevices_cpu] at clocked
  exact State.ime_of_promoteEi clocked

/-- No instruction but RETI sets IME (10_state.md R27). -/
theorem exec_sets_ime {i : Instr} {s t : State} (run : exec i s = .next t) (before : s.cpu.ime = false)
    (after : t.cpu.ime = true) : i = .reti := by
  rcases (exec_next run).ime with same | ⟨reti, -⟩ | ⟨-, cleared⟩
  · rw [same, before] at after
    cases after
  · exact reti
  · rw [cleared] at after
    cases after

/-- Settles O42: a stopped or halted step runs no instruction, and the one instruction that sets IME has the byte 0xD9. -/
theorem onlyRetiAndEiSetIme : Obligations.OnlyRetiAndEiSetIme := by
  intro s t run after before
  have unset : s.cpu.ime ≠ true := by rw [before]; decide
  obtain ⟨-, ⟨-, rfl⟩ | ⟨-, -, rfl⟩ | ⟨-, halted, u, hu, rfl⟩⟩ := step_next run
  · exact absurd after unset
  · exact .inr ((State.ime_of_finishStep after).resolve_left unset)
  · refine (State.ime_of_finishStep after).imp (fun set => ?_) id
    exact ⟨halted, decodeBytes_reti (exec_sets_ime hu before set)⟩

end Sys2Proof.Machine
end

section
/-! What clocking the devices can do to IF (60_exceptions.md R407, R431, R443, R445, R446). -/

namespace Sys2Proof.Machine

/-! ### Requests of the devices -/

/-- `after` is `before` with some of the bits 0, 1 and 2 set: the requests of the LCD controller and the timer. -/
def DeviceRequests (before after : Byte) : Prop := ∃ bits : Byte, bits.toNat < 8 ∧ after = before ||| bits

theorem DeviceRequests.refl (x : Byte) : DeviceRequests x x := ⟨0, by decide, by simp⟩

theorem DeviceRequests.trans {x y z : Byte} (h : DeviceRequests x y) (k : DeviceRequests y z) : DeviceRequests x z := by
  obtain ⟨p, hp, rfl⟩ := h
  obtain ⟨q, hq, rfl⟩ := k
  refine ⟨p ||| q, ?_, BitVec.or_assoc x p q⟩
  rw [BitVec.toNat_or]
  exact Nat.or_lt_two_pow (n := 3) hp hq

/-- Requesting V-Blank, LCD-STAT or Timer is such a request. -/
theorem State.request_requests (s : State) {k : Nat} (hk : k < 3) :
    DeviceRequests s.irq.iflag (s.request k).irq.iflag := by
  have bits : ∀ k < 3, (bitMask k).toNat < 8 := by decide
  exact ⟨bitMask k, bits k hk, rfl⟩

/-! ### The LCD controller requests V-Blank and LCD-STAT -/

theorem State.statRequest_requests (s : State) (n : Nat) : DeviceRequests s.irq.iflag (s.statRequest n).irq.iflag := by
  unfold State.statRequest
  split
  · exact s.request_requests (by decide)
  · exact .refl _

theorem State.lineCompare_requests (s : State) : DeviceRequests s.irq.iflag s.lineCompare.irq.iflag := by
  unfold State.lineCompare
  split
  · dsimp only
    split
    · exact State.request_requests _ (by decide)
    · exact .refl _
  · exact .refl _

theorem State.newLine_requests (s : State) : DeviceRequests s.irq.iflag s.newLine.irq.iflag := by
  unfold State.newLine
  dsimp only
  split
  · refine .trans ?_ (State.lineCompare_requests _)
    refine .trans ?_ (State.statRequest_requests _ 4)
    exact s.request_requests (by decide)
  · split
    · exact .trans (.refl _) (State.lineCompare_requests _)
    · exact .refl _

theorem State.midLine_requests (s : State) : DeviceRequests s.irq.iflag s.midLine.irq.iflag := by
  unfold State.midLine
  split
  · split
    · exact .refl _
    · split
      · exact .trans (.refl _) (State.statRequest_requests _ 3)
      · exact .refl _
  · exact .refl _

theorem State.lcdTick_requests (s : State) : DeviceRequests s.irq.iflag s.lcdTick.irq.iflag := by
  unfold State.lcdTick
  split
  · exact s.newLine_requests
  · exact .trans (.refl _) (State.midLine_requests _)

theorem State.lcdClock_requests (n : Nat) (s : State) : DeviceRequests s.irq.iflag (State.lcdClock n s).irq.iflag := by
  induction n generalizing s with
  | zero => exact .refl _
  | succ n ih => exact s.lcdTick_requests.trans (ih _)

/-! ### The timer requests Timer -/

theorem State.timaIncrement_requests (s : State) : DeviceRequests s.irq.iflag s.timaIncrement.irq.iflag := by
  unfold State.timaIncrement
  split
  · exact State.request_requests _ (by decide)
  · exact .refl _

theorem State.timaIncrements_requests (k : Nat) (s : State) :
    DeviceRequests s.irq.iflag (State.timaIncrements k s).irq.iflag := by
  induction k generalizing s with
  | zero => exact .refl _
  | succ k ih => exact s.timaIncrement_requests.trans (ih _)

theorem State.timerTick_requests (n : Nat) (s : State) : DeviceRequests s.irq.iflag (State.timerTick n s).irq.iflag := by
  unfold State.timerTick State.timaTick
  split
  · exact .trans (.refl _) (State.timaIncrements_requests _ _)
  · exact .refl _

/-- Clocking the devices sets some of the bits 0, 1 and 2 of IF and clears none (60_exceptions.md R407). -/
theorem State.clockDevices_requests (n : Nat) (s : State) :
    DeviceRequests s.irq.iflag (State.clockDevices n s).irq.iflag :=
  (State.lcdClock_requests n s).trans (State.timerTick_requests n _)

/-- Settles O47: the frame is the shape of a device clock, the bits of IF are the devices' requests. -/
theorem devicesLeaveCpuAndMemory : Obligations.DevicesLeaveCpuAndMemory := by
  intro n s
  have requests := State.clockDevices_requests n s
  dsimp only
  rw [State.clockDevices_shape] at requests ⊢
  exact ⟨rfl, rfl, rfl, rfl, rfl, rfl, rfl, rfl, rfl, requests⟩

end Sys2Proof.Machine
end

section
/-! The machine after a load and after `reset()` (10_state.md R38). -/

namespace Sys2Proof.Machine

/-- A load and a `reset()` both leave the CPU and the interrupt registers in their reset state, whatever was before. -/
theorem cpu_irq_of_reset {s t : State} {cart : Cartridge} {ram : Rams} (h : t ∈ [State.powerOn cart ram, s.hostReset]) :
    t.cpu = Cpu.reset ∧ t.irq = Irq.reset := by
  rcases List.mem_pair.mp h with rfl | rfl <;> exact ⟨rfl, rfl⟩

/-- Settles O1: the values of R38 are those of `Cpu.reset` and `Irq.reset`. -/
theorem resetGivesCpuRegisters : Obligations.ResetGivesCpuRegisters := by
  intro s cart ram t ht
  obtain ⟨hcpu, hirq⟩ := cpu_irq_of_reset ht
  rw [hcpu, hirq]
  decide

/-- The stores of a machine just loaded are canonical: RAM and ROM as given, the APU's registers at their reset values. -/
theorem State.powerOn_stored {cart : Cartridge} {ram : Rams} (rom : cart.rom.within 0 cart.romLength = true)
    (fits : ram.Fits cart.ramBanks) : (State.powerOn cart ram).Stored := by
  have apu : Apu.reset.regs.within 0xFF10 0xFF40 = true := by decide
  exact ⟨fits.vram, fits.cartRam, fits.wram, fits.oam, fits.hram, apu, rom⟩

theorem Lcd.reset_synced : Lcd.reset.Synced := ⟨by decide, by decide, by decide⟩

/-- Settles O3: the stores are canonical as given, and the rest of the invariant is about the fixed reset values. -/
theorem loadedMachineMeetsInvariant : Obligations.LoadedMachineMeetsInvariant := by
  intro cart ram rom fits
  have flags : Cpu.reset.f.extractLsb' 0 4 = 0 := by decide
  have counters : Timer.reset.divCount < 256 ∧ Timer.reset.timaCount < 1024 := by decide
  have bankLo : (Mapper.reset cart.kind).bankLo ≠ 0 := by show (1#5 : BitVec 5) ≠ 0; decide
  exact ⟨State.powerOn_stored rom fits, flags, Lcd.reset_synced, rfl, counters.1, counters.2, bankLo, rfl⟩

end Sys2Proof.Machine
end

section
/-! What a read and a write of an address do where the region alone decides it: the ROM windows, cartridge RAM, echo RAM and
the addresses where nothing is mapped (20_memory.md R81..R89, R95..R99). -/

namespace Sys2Proof.Machine

/-! ### The ROM windows -/

theorem State.memRead_romFixed (s : State) {a : Word} (h : a.toNat < 0x4000) : s.memRead a = s.cart.romByte a.toNat := by
  rw [State.memRead_eq (regionOf_eq (r := .romFixed) (Nat.zero_le _) h), State.regionRead, State.romOffset_low s h]

theorem State.memRead_romBanked (s : State) {a : Word} (low : 0x4000 ≤ a.toNat) (high : a.toNat < 0x8000) :
    s.memRead a = s.cart.romByte (s.mapper.romBank s.cart * 0x4000 + (a.toNat - 0x4000)) := by
  rw [State.memRead_eq (regionOf_eq (r := .romBanked) low high), State.regionRead, State.romOffset, if_neg (by omega)]

/-- A write below 0x8000 goes to the mapper (20_memory.md R95). -/
theorem State.memWrite_rom (s : State) {a : Word} (h : a.toNat < 0x8000) (v : Byte) :
    s.memWrite a v = { s with mapper := s.mapper.write s.cart a v } := by
  by_cases low : a.toNat < 0x4000
  · rw [State.memWrite_eq (regionOf_eq (r := .romFixed) (Nat.zero_le _) low), State.regionWrite]
  · rw [State.memWrite_eq (regionOf_eq (r := .romBanked) (Nat.le_of_not_lt low) h), State.regionWrite]

theorem touches_romFixed {a b : Word} (ha : a.toNat < 0x8000) (hb : b.toNat < 0x4000) : touches a b = false := by
  rw [touches, if_pos ha, Bool.or_eq_false_iff]
  exact ⟨decide_eq_false (by omega), decide_eq_false (by omega)⟩

theorem Cartridge.romByte_beyond {cart : Cartridge} {offset : Nat} (h : cart.romLength ≤ offset) :
    cart.romByte offset = 0xFF :=
  if_neg (Nat.not_lt.mpr h)

/-! ### The bank that a mapper selects (20_memory.md R94, R96, R98, R99) -/

theorem Mapper.romBank_romOnly (m : Mapper) {cart : Cartridge} (h : cart.kind = .romOnly) : m.romBank cart = 1 := by
  rw [Mapper.romBank, h]

/-- `bank_lo` has five bits, so joining `bank_hi` above it is an addition (20_memory.md R98). -/
theorem Mapper.mbc1RomSelect_eq (m : Mapper) :
    m.mbc1RomSelect = m.bankLo.toNat + (if m.bankMode then 0 else 32 * m.bankHi.toNat) := by
  unfold Mapper.mbc1RomSelect
  split
  · rw [Nat.or_zero, Nat.add_zero]
  · rw [Nat.or_comm, ← Nat.shiftLeft_add_eq_or_of_lt m.bankLo.isLt, Nat.shiftLeft_eq]
    omega

theorem Mapper.romBank_mbc1 (m : Mapper) {cart : Cartridge} (h : cart.kind = .mbc1) :
    m.romBank cart = (m.bankLo.toNat + (if m.bankMode then 0 else 32 * m.bankHi.toNat)) % cart.romBanks := by
  rw [Mapper.romBank, h, ← Mapper.mbc1RomSelect_eq]

theorem Mapper.romBank_supplied (m : Mapper) {cart : Cartridge} {code : Byte} (h : cart.kind = .supplied code) :
    m.romBank cart = Config.mapperRomBank code m.supplied := by
  rw [Mapper.romBank, h]

theorem Mapper.ramBank_mbc1 (m : Mapper) {cart : Cartridge} (h : cart.kind = .mbc1) :
    m.ramBank cart = (if m.bankMode then m.bankHi.toNat else 0) % cart.ramBanks := by
  rw [Mapper.ramBank, h]

/-- The offset of an address in MBC1's cartridge RAM (20_memory.md R99). -/
theorem State.cartRamOffset_mbc1 {s : State} (h : s.cart.kind = .mbc1) (a : Word) : s.cartRamOffset a =
    (if s.mapper.bankMode then s.mapper.bankHi.toNat else 0) % s.cart.ramBanks * 0x2000 + (a.toNat - 0xA000) := by
  rw [← Mapper.ramBank_mbc1 s.mapper h]
  rfl

/-! ### Cartridge RAM -/

/-- Cartridge RAM that is absent or disabled does not respond (20_memory.md R96, R99). -/
theorem Mapper.ramOn_eq_false {m : Mapper} {cart : Cartridge}
    (h : cart.kind = .romOnly ∨ cart.ramBanks = 0 ∨ (cart.kind = .mbc1 ∧ m.ramEnable = false) ∨
      ∃ code, cart.kind = .supplied code ∧ Config.mapperRamEnable code m.supplied = false) : m.ramOn cart = false := by
  rcases h with kind | absent | ⟨kind, off⟩ | ⟨code, kind, off⟩
  · rw [Mapper.ramOn, kind]
  · exact Bool.eq_false_iff.mpr fun on => Nat.ne_of_gt (Mapper.ramOn_banks on) absent
  · rw [Mapper.ramOn, kind, off]
    exact Bool.and_false _
  · simp only [Mapper.ramOn, kind, off, Bool.and_false]

theorem Mapper.ramOn_mbc1 {m : Mapper} {cart : Cartridge} (kind : cart.kind = .mbc1) (present : 0 < cart.ramBanks)
    (enabled : m.ramEnable = true) : m.ramOn cart = true := by
  rw [Mapper.ramOn, kind, enabled]
  exact (Bool.and_true _).trans (decide_eq_true present)

section CartRam

variable {s : State} {a : Word} (low : 0xA000 ≤ a.toNat) (high : a.toNat < 0xC000) (on : s.mapper.ramOn s.cart = true)

include low high on

theorem State.memRead_cartRam : s.memRead a = s.ram.cartRam.read (s.cartRamOffset a) := by
  rw [State.memRead_eq (regionOf_eq (r := .cartRam) low high), State.regionRead, if_pos on]

theorem State.memWrite_cartRam (v : Byte) :
    s.memWrite a v = { s with ram := { s.ram with cartRam := s.ram.cartRam.write (s.cartRamOffset a) v } } := by
  rw [State.memWrite_eq (regionOf_eq (r := .cartRam) low high), State.regionWrite, if_pos on]

/-- Cartridge RAM that responds reads back what was written (20_memory.md R99). -/
theorem State.memRead_memWrite_cartRam (stored : s.Stored) (v : Byte) : (s.memWrite a v).memRead a = v := by
  have readBack : (s.ram.cartRam.write (s.cartRamOffset a) v).read (s.cartRamOffset a) = v :=
    Memory.read_write_same (Memory.wfFrom_of_within stored.cartRam) _ v
  rw [State.memWrite_cartRam low high on, State.memRead_cartRam low high]
  · exact readBack
  · exact on

end CartRam

/-! ### Echo RAM -/

theorem toNat_echo_sub {a : Word} (low : 0xE000 ≤ a.toNat) : (a - 0x2000).toNat = a.toNat - 0x2000 :=
  BitVec.toNat_sub_of_le (BitVec.le_def.mpr (Nat.le_trans (by decide) low))

section Echo

variable {a : Word} (low : 0xE000 ≤ a.toNat) (high : a.toNat < 0xFE00)

include low high

theorem regionOf_echo_sub : regionOf (a - 0x2000) = .wram := by
  have sub := toNat_echo_sub low
  exact regionOf_eq (by simp only [Region.low]; omega) (by simp only [Region.high]; omega)

/-- An echo address reads as the work RAM address 0x2000 below (20_memory.md R87). -/
theorem State.memRead_echo (s : State) : s.memRead a = s.memRead (a - 0x2000) := by
  rw [State.memRead_eq (regionOf_eq (r := .echo) low high), State.memRead_eq (regionOf_echo_sub low high),
    State.regionRead, State.regionRead, toNat_echo_sub low]

/-- An echo address is written as the work RAM address 0x2000 below (20_memory.md R87). -/
theorem State.memWrite_echo (s : State) (v : Byte) : s.memWrite a v = s.memWrite (a - 0x2000) v := by
  rw [State.memWrite_eq (regionOf_eq (r := .echo) low high), State.memWrite_eq (regionOf_echo_sub low high),
    State.regionWrite, State.regionWrite, toNat_echo_sub low]

end Echo

/-! ### Where nothing is mapped -/

/-- Nothing outside ROM answers at `a`: the unusable region, an unassigned address of the I/O block, cartridge RAM that does
not respond (20_memory.md R85, R88, R96, R99). -/
inductive State.Unmapped (s : State) (a : Word) : Prop where
  | unusable (region : regionOf a = .unusable)
  | unassigned (region : regionOf a = .io) (register : ioRegOf a = none)
  | cartRamOff (region : regionOf a = .cartRam) (off : s.mapper.ramOn s.cart = false)

theorem State.Unmapped.memRead {s : State} {a : Word} (h : s.Unmapped a) : s.memRead a = 0xFF := by
  cases h with
  | unusable region => rw [State.memRead_eq region]; rfl
  | unassigned region register => rw [State.memRead_eq region, State.regionRead, register]; rfl
  | cartRamOff region off => rw [State.memRead_eq region, State.regionRead, off]; rfl

theorem State.Unmapped.memWrite {s : State} {a : Word} (h : s.Unmapped a) (v : Byte) : s.memWrite a v = s := by
  cases h with
  | unusable region => rw [State.memWrite_eq region]; rfl
  | unassigned region register => rw [State.memWrite_eq region, State.regionWrite, register]
  | cartRamOff region off => rw [State.memWrite_eq region, State.regionWrite, off]; rfl

/-- The unassigned addresses of the I/O block (20_memory.md R88). -/
theorem State.Unmapped.of_unassigned (s : State) {a : Word} (h : a.toNat = 0xFF03 ∨ (0xFF08 ≤ a.toNat ∧ a.toNat ≤ 0xFF0E) ∨
    a.toNat = 0xFF15 ∨ a.toNat = 0xFF1F ∨ (0xFF27 ≤ a.toNat ∧ a.toNat ≤ 0xFF2F) ∨ (0xFF4C ≤ a.toNat ∧ a.toNat ≤ 0xFF7F)) :
    s.Unmapped a := by
  have region : regionOf a = .io := regionOf_eq (by simp only [Region.low]; omega) (by simp only [Region.high]; omega)
  exact .unassigned region (ioRegOf_unassigned h)

end Sys2Proof.Machine
end

section
/-! What RAM, unmapped addresses, the ROM windows and banked cartridge RAM promise the programmer. -/

namespace Sys2Proof.Machine

/-- Settles O48: read after write and the frame are the laws of `memWrite`; an echo address is decoded as the one below. -/
theorem ramReadsBackWhatWasWritten : Obligations.RamReadsBackWhatWasWritten := by
  intro s a v stored
  refine ⟨State.memRead_memWrite_same stored v, fun b => State.memWrite_frame s v, State.memWrite_cpu s a v, ?_⟩
  intro low high
  exact ⟨State.memRead_echo low high s, State.memWrite_echo low high s v⟩

/-- Settles O49: each range outside ROM is one of the kinds of `State.Unmapped`, and a window shows the sentinel where the
offset of the selected bank is beyond the image. -/
theorem unmappedReadsSentinel : Obligations.UnmappedReadsSentinel := by
  intro s a v
  refine ⟨fun h => ?_, fun low beyond => ?_, fun low high kind beyond => ?_, fun low high kind beyond => ?_,
    fun code low high kind beyond => ?_⟩
  · have unmapped : s.Unmapped a := by
      rcases h with ⟨low, high⟩ | h | h | h | h | h | h | ⟨low, high, off⟩
      · exact .unusable (regionOf_eq (r := .unusable) low high)
      iterate 6 exact .of_unassigned s (by omega)
      · exact .cartRamOff (regionOf_eq (r := .cartRam) low high) (Mapper.ramOn_eq_false off)
    exact ⟨unmapped.memRead, unmapped.memWrite v⟩
  · rw [State.memRead_romFixed s low, Cartridge.romByte_beyond beyond]
  · rw [State.memRead_romBanked s low high, Mapper.romBank_romOnly _ kind, Cartridge.romByte_beyond (by omega)]
  · rw [State.memRead_romBanked s low high, Mapper.romBank_mbc1 _ kind, Cartridge.romByte_beyond beyond]
  · rw [State.memRead_romBanked s low high, Mapper.romBank_supplied _ kind, Cartridge.romByte_beyond beyond]

/-! ### The registers of MBC1 (20_memory.md R97)

A write reaches one quarter: there the register is the same on both sides, and the bounds of the other quarters contradict. -/

theorem lowNibble_beq_ten (v : Byte) : (v.extractLsb' 0 4 == 0xA#4) = decide (v.toNat % 16 = 10) := by
  revert v; decide

theorem bankLo_toNat (v : Byte) : (if v.extractLsb' 0 5 = 0#5 then 1#5 else v.extractLsb' 0 5).toNat =
    if v.toNat % 32 = 0 then 1 else v.toNat % 32 := by
  revert v; decide

theorem bitZero_eq (v : Byte) : v.getLsbD 0 = decide (v.toNat % 2 = 1) := by
  revert v; decide

section Mbc1

variable (m : Mapper) (a : Word) (v : Byte)

theorem Mapper.mbc1Write_ramEnable : (m.mbc1Write a v).ramEnable =
    if a.toNat < 0x2000 then decide (v.toNat % 16 = 10) else m.ramEnable := by
  rw [← lowNibble_beq_ten]
  unfold Mapper.mbc1Write
  split_ifs <;> rfl

theorem Mapper.mbc1Write_bankLo : (m.mbc1Write a v).bankLo.toNat =
    if 0x2000 ≤ a.toNat ∧ a.toNat < 0x4000 then (if v.toNat % 32 = 0 then 1 else v.toNat % 32)
    else m.bankLo.toNat := by
  rw [← bankLo_toNat]
  unfold Mapper.mbc1Write
  split_ifs <;> first | rfl | omega

theorem Mapper.mbc1Write_bankHi : (m.mbc1Write a v).bankHi.toNat =
    if 0x4000 ≤ a.toNat ∧ a.toNat < 0x6000 then v.toNat % 4 else m.bankHi.toNat := by
  have low : (v.extractLsb' 0 2).toNat = v.toNat % 4 := by simp
  rw [← low]
  unfold Mapper.mbc1Write
  split_ifs <;> first | rfl | omega

theorem Mapper.mbc1Write_bankMode : (m.mbc1Write a v).bankMode =
    if 0x6000 ≤ a.toNat then decide (v.toNat % 2 = 1) else m.bankMode := by
  rw [← bitZero_eq]
  unfold Mapper.mbc1Write
  split_ifs <;> first | rfl | omega

end Mbc1

theorem Mapper.write_romOnly (m : Mapper) {cart : Cartridge} (h : cart.kind = .romOnly) (a : Word) (v : Byte) :
    m.write cart a v = m := by
  rw [Mapper.write, h]

theorem Mapper.write_mbc1 (m : Mapper) {cart : Cartridge} (h : cart.kind = .mbc1) (a : Word) (v : Byte) :
    m.write cart a v = m.mbc1Write a v := by
  rw [Mapper.write, h]

/-- Settles O50: the windows show the offset in the bank of the mapper kind, and a write reaches the one register of its
quarter. -/
theorem romBankSelection : Obligations.RomBankSelection := by
  intro s a v high
  dsimp only
  refine ⟨State.memRead_romFixed s, fun low kind => ?_, fun low kind => ?_, fun kind => ?_, fun kind => ?_⟩
  · have offset : 1 * 0x4000 + (a.toNat - 0x4000) = a.toNat := by omega
    rw [State.memRead_romBanked s low high, Mapper.romBank_romOnly _ kind, offset]
  · rw [State.memRead_romBanked s low high, Mapper.romBank_mbc1 _ kind]
  · rw [State.memWrite_rom s high, Mapper.write_romOnly _ kind]
  · rw [State.memWrite_rom s high, Mapper.write_mbc1 _ kind]
    exact ⟨Mapper.mbc1Write_ramEnable _ a v, Mapper.mbc1Write_bankLo _ a v, Mapper.mbc1Write_bankHi _ a v,
      Mapper.mbc1Write_bankMode _ a v⟩

/-- Settles O51: responding cartridge RAM is its store at the offset in the selected bank. -/
theorem cartridgeRamIsBankedStorage : Obligations.CartridgeRamIsBankedStorage := by
  intro s a v stored kind present enabled low high
  have on : s.mapper.ramOn s.cart = true := Mapper.ramOn_mbc1 kind present enabled
  have write := State.memWrite_cartRam low high on v
  dsimp only
  rw [← State.cartRamOffset_mbc1 kind a]
  refine ⟨State.memRead_cartRam low high on, State.memRead_memWrite_cartRam low high on stored v, ?_, fun k other => ?_⟩
  · rw [write]
  · rw [write]
    exact Memory.read_write_other s.ram.cartRam other v

end Sys2Proof.Machine
end

section
/-! Nothing that happens to the machine changes the cartridge (10_state.md R20; 20_memory.md R86, R95). -/

namespace Sys2Proof.Machine

theorem State.storeAll_cart (s : State) (ws : List (Word × Byte)) : (s.storeAll ws).cart = s.cart :=
  (State.storeAll_keeps s ws).2.2

theorem exec_cart {i : Instr} {s t : State} (run : exec i s = .next t) : t.cart = s.cart := by
  obtain ⟨ws, n, ht, -⟩ := (exec_next run).writes
  rw [ht, State.reframe_cart, State.storeAll_cart]

@[simp] theorem State.promoteEi_cart (fire : Bool) (s : State) : (s.promoteEi fire).cart = s.cart := by
  rcases State.promoteEi_cases fire s with ⟨e, -⟩ | ⟨-, -, e⟩
  · rw [e]
  · rw [e, State.reframe_cart]

@[simp] theorem State.clockDevices_cart (n : Nat) (s : State) : (State.clockDevices n s).cart = s.cart := by
  rw [State.clockDevices_shape]

@[simp] theorem State.wakeCheck_cart (s : State) : s.wakeCheck.cart = s.cart := by
  rcases State.wakeCheck_cases s with e | ⟨-, -, -, e⟩
  · rw [e]
  · rw [e, State.reframe_cart]

@[simp] theorem State.dispatchCheck_cart (s : State) : s.dispatchCheck.cart = s.cart := by
  rcases State.dispatchCheck_cases s with e | ⟨-, -, -, e⟩
  · rw [e]
  · rw [e, State.takeInterrupt_eq, State.reframe_cart, State.storeAll_cart]

@[simp] theorem State.finishStep_cart (fire : Bool) (s : State) : (s.finishStep fire).cart = s.cart := by
  simp only [State.finishStep, State.dispatchCheck_cart, State.wakeCheck_cart, State.clockDevices_cart,
    State.promoteEi_cart]

theorem step_cart {s t : State} (run : step s = .next t) : t.cart = s.cart := by
  obtain ⟨-, ⟨-, rfl⟩ | ⟨-, -, rfl⟩ | ⟨-, -, u, hu, rfl⟩⟩ := step_next run
  · rw [State.beginStep_cart]
  · rw [State.finishStep_cart, State.idle_cart, State.beginStep_cart]
  · rw [State.finishStep_cart, exec_cart hu, State.advancePc_cart, State.beginStep_cart]

@[simp] theorem State.input_cart (s : State) (key : Key) (pressed : Bool) : (s.input key pressed).cart = s.cart := by
  unfold State.input
  split
  · split <;> rfl
  · rfl

theorem State.Leads.cart {s t : State} {e : Event} (h : s.Leads e t) : t.cart = s.cart := by
  cases e with
  | step => exact step_cart h
  | input key pressed => rw [show t = s.input key pressed from h, State.input_cart]
  | writeMemory addr value => rw [show t = s.writeMemory addr value from h, State.writeMemory, State.memWrite_cart]
  | reset => rw [show t = s.hostReset from h, State.hostReset_cart]

theorem Reaches.cart {s t : State} (h : Reaches s t) : t.cart = s.cart := by
  induction h with
  | here => rfl
  | after e _ event ih => exact event.cart.trans ih

/-- Settles O46: by induction over the events; a write below 0x8000 goes to the mapper, which the fixed window does not see. -/
theorem romIsImmutable : Obligations.RomIsImmutable :=
  ⟨fun _ _ => Reaches.cart, fun s _ v ha =>
    ⟨_, State.memWrite_rom s ha v, fun _ hb => State.memWrite_frame s v (touches_romFixed ha hb)⟩⟩

end Sys2Proof.Machine
end

section
/-! The OAM copy that a write to the DMA register starts (20_memory.md R91). -/

namespace Sys2Proof.Machine

/-- Byte `k` of the page that the copy reads. -/
theorem toNat_dmaSource (v : Byte) {k : Nat} (hk : k < 160) :
    (wordOf v 0 + BitVec.ofNat 16 k).toNat = 256 * v.toNat + k := by
  have := v.isLt
  have zero : (0 : Byte).toNat = 0 := rfl
  rw [BitVec.toNat_add, wordOf_eq_fromHalves, toNat_fromHalves, BitVec.toNat_ofNat, zero]
  omega

/-- The copy of the first `n` bytes leaves the later bytes of OAM as they were. -/
theorem State.dmaCopy_oam_later (s : State) (v : Byte) {n k : Nat} (h : n ≤ k) :
    (s.dmaCopy v n).ram.oam.read (0xFE00 + k) = s.ram.oam.read (0xFE00 + k) := by
  induction n with
  | zero => rfl
  | succ n ih => exact (Memory.read_write_other _ (by omega) _).trans (ih (by omega))

/-- When its turn comes, a byte of the source page still reads as before the copy: the one page that overlaps OAM is OAM
itself, whose byte `n` no earlier turn has written. -/
theorem State.dmaCopy_memRead_source (s : State) (v : Byte) {n : Nat} (hn : n < 160) :
    (s.dmaCopy v n).memRead (wordOf v 0 + BitVec.ofNat 16 n) = s.memRead (wordOf v 0 + BitVec.ofNat 16 n) := by
  have source := toNat_dmaSource v hn
  generalize wordOf v 0 + BitVec.ofNat 16 n = a at source
  by_cases oam : regionOf a = .oam
  · obtain ⟨low, high⟩ := regionOf_bounds oam
    simp only [Region.low, Region.high] at low high
    have own : a.toNat = 0xFE00 + n := by omega
    rw [State.memRead_eq oam, State.memRead_eq oam, State.regionRead, State.regionRead, own]
    exact s.dmaCopy_oam_later v (Nat.le_refl n)
  · exact s.dmaCopy_memRead v n oam

/-- The copy stores in byte `k` of OAM what a read of byte `k` of the source page returns. -/
theorem State.dmaCopy_oam_read {s : State} (oam : s.ram.oam.within 0xFE00 0xFEA0 = true) (v : Byte) {n k : Nat}
    (hk : k < n) (hn : n ≤ 160) :
    (s.dmaCopy v n).ram.oam.read (0xFE00 + k) = s.memRead (wordOf v 0 + BitVec.ofNat 16 k) := by
  induction n with
  | zero => omega
  | succ n ih =>
    have canonical := Memory.wfFrom_of_within (State.dmaCopy_oam_within oam v (n := n) (by omega))
    by_cases last : k = n
    · subst last
      exact (Memory.read_write_same canonical _ _).trans (s.dmaCopy_memRead_source v (by omega))
    · exact (Memory.read_write_other _ (by omega) _).trans (ih (by omega) (by omega))

/-- Storing the DMA register alone changes the read of that register only. -/
theorem State.memRead_setDma (s : State) (v : Byte) (a : Word) :
    ({ s with lcd := { s.lcd with dma := v } } : State).memRead a = if a.toNat = 0xFF46 then v else s.memRead a := by
  split
  case isTrue own =>
    have region : regionOf a = .io := regionOf_eq (by simp only [Region.low]; omega) (by simp only [Region.high]; omega)
    rw [State.memRead_io region (ioRegOf_of_address (r := .dma) (by decide) own)]
    rfl
  case isFalse other =>
    unfold State.memRead
    cases regionOf a
    case io =>
      simp only [State.regionRead]
      cases register : ioRegOf a with
      | none => rfl
      | some r =>
        cases r
        case dma => exact absurd ((ioRegOf_address register).1 (by decide)) other
        all_goals rfl
    all_goals rfl

theorem State.memWrite_dma (s : State) (v : Byte) : s.memWrite 0xFF46 v = s.dmaWrite v :=
  State.memWrite_io (regionOf_eq (r := .io) (by decide) (by decide)) (ioRegOf_of_address (r := .dma) (by decide) rfl) s v

/-- A read of byte `k` of OAM. -/
theorem State.memRead_oam (s : State) {k : Nat} (hk : k < 160) :
    s.memRead (BitVec.ofNat 16 (0xFE00 + k)) = s.ram.oam.read (0xFE00 + k) := by
  have address : (BitVec.ofNat 16 (0xFE00 + k)).toNat = 0xFE00 + k := by
    rw [BitVec.toNat_ofNat]
    omega
  have region : regionOf (BitVec.ofNat 16 (0xFE00 + k)) = .oam :=
    regionOf_eq (by simp only [Region.low]; omega) (by simp only [Region.high]; omega)
  rw [State.memRead_eq region, State.regionRead, address]

/-- Byte `k` of OAM after a write to the DMA register, which is stored before the copy reads it. -/
theorem State.dmaWrite_oam_read {s : State} (stored : s.Stored) (v : Byte) {k : Nat} (hk : k < 160) :
    (s.dmaWrite v).ram.oam.read (0xFE00 + k) =
      if 256 * v.toNat + k = 0xFF46 then v else s.memRead (BitVec.ofNat 16 (256 * v.toNat + k)) := by
  have source := toNat_dmaSource v hk
  rw [State.dmaWrite, State.dmaCopy_oam_read (by exact stored.oam) v hk (Nat.le_refl 160), State.memRead_setDma,
    ← source, BitVec.ofNat_toNat, BitVec.setWidth_eq]

/-- Settles O52: each byte is the read of its source address, by induction over the copied bytes; the rest is the shape of
the write. -/
theorem dmaCopiesOnePage : Obligations.DmaCopiesOnePage := by
  intro s v stored
  dsimp only
  have register : regionOf 0xFF46 = .io ∧ ioRegOf 0xFF46 = some .dma := by decide
  rw [State.memWrite_dma]
  refine ⟨?_, fun k hk => ?_, State.dmaWrite_eq s v⟩
  · rw [State.memRead_io register.1 register.2, State.dmaWrite_eq]
    rfl
  · rw [State.memRead_oam _ hk, State.dmaWrite_oam_read stored v hk]

end Sys2Proof.Machine
end

section
/-! The decoder and the encoder are inverse to each other (30_encoding.md R120..R136). An opcode byte is the
number that its fields make up, and the encoding of what is read is arithmetic about that number. -/

namespace Sys2Proof

open Machine (wordOf hiByte loByte wordOf_eq_fromHalves hiByte_eq_highHalf loByte_eq_lowHalf fromHalves_halves
  highHalf_fromHalves lowHalf_fromHalves)

/-! ### Operand codes (30_encoding.md R123..R127) -/

@[simp] theorem regOfCode_code (r : Reg8) : regOfCode r.code = some r := by cases r <;> rfl

theorem code_of_mem_regOfCode : ∀ k : BitVec 3, ∀ r ∈ regOfCode k, r.code = k := by decide

@[simp] theorem regOfCode_eq_some {k : BitVec 3} {r : Reg8} : regOfCode k = some r ↔ r.code = k :=
  ⟨code_of_mem_regOfCode k r, fun h => h ▸ regOfCode_code r⟩

/-- Code 6 alone is no register (30_encoding.md R123). -/
@[simp] theorem regOfCode_eq_none : ∀ k : BitVec 3, regOfCode k = none ↔ k = 6 := by decide

@[simp] theorem regOfCode_six : regOfCode 6#3 = none := rfl

@[simp] theorem code_pairOfCode : ∀ k : BitVec 2, (pairOfCode k).code = k := by decide
@[simp] theorem code_stackPairOfCode : ∀ k : BitVec 2, (stackPairOfCode k).code = k := by decide
@[simp] theorem code_condOfCode : ∀ k : BitVec 2, (condOfCode k).code = k := by decide

@[simp] theorem wordOf_halves (w : Word) : wordOf (hiByte w) (loByte w) = w := by
  rw [wordOf_eq_fromHalves, hiByte_eq_highHalf, loByte_eq_lowHalf, fromHalves_halves]

@[simp] theorem hiByte_wordOf (hi lo : Byte) : hiByte (wordOf hi lo) = hi := by
  rw [wordOf_eq_fromHalves, hiByte_eq_highHalf, highHalf_fromHalves]

@[simp] theorem loByte_wordOf (hi lo : Byte) : loByte (wordOf hi lo) = lo := by
  rw [wordOf_eq_fromHalves, loByte_eq_lowHalf, lowHalf_fromHalves]

/-! ### Opcode bytes and their fields as numbers (30_encoding.md R122) -/

@[simp] theorem toNat_opX (b : Byte) : (opX b).toNat = b.toNat / 64 := by
  simp only [opX, BitVec.extractLsb'_toNat, Nat.shiftRight_eq_div_pow]
  omega

@[simp] theorem toNat_opY (b : Byte) : (opY b).toNat = b.toNat / 8 % 8 := by
  simp only [opY, BitVec.extractLsb'_toNat, Nat.shiftRight_eq_div_pow]

@[simp] theorem toNat_opZ (b : Byte) : (opZ b).toNat = b.toNat % 8 := by
  simp only [opZ, BitVec.extractLsb'_toNat, Nat.shiftRight_zero]

@[simp] theorem toNat_opP (b : Byte) : (opP b).toNat = b.toNat / 16 % 4 := by
  simp only [opP, BitVec.extractLsb'_toNat, Nat.shiftRight_eq_div_pow]

@[simp] theorem toNat_opC (b : Byte) : (opC b).toNat = b.toNat / 8 % 4 := by
  simp only [opC, BitVec.extractLsb'_toNat, Nat.shiftRight_eq_div_pow]

@[simp] theorem opQ_eq (b : Byte) : opQ b = decide (b.toNat / 8 % 2 = 1) := by
  rw [opQ, BitVec.getLsbD, Nat.testBit_eq_decide_div_mod_eq]

/-- Concatenating bits is adding the number of the low ones to the shifted number of the high ones. -/
theorem toNat_append_bits {m n : Nat} (u : BitVec m) (v : BitVec n) : (u ++ v).toNat = u.toNat * 2 ^ n + v.toNat := by
  rw [BitVec.toNat_append, ← Nat.shiftLeft_add_eq_or_of_lt v.isLt, Nat.shiftLeft_eq]

@[simp] theorem toNat_octal (x : BitVec 2) (y z : BitVec 3) :
    (octal x y z).toNat = 64 * x.toNat + 8 * y.toNat + z.toNat := by
  rw [octal, toNat_append_bits, toNat_append_bits]
  omega

@[simp] theorem toNat_quad (x p : BitVec 2) (z : BitVec 4) :
    (quad x p z).toNat = 64 * x.toNat + 16 * p.toNat + z.toNat := by
  rw [quad, toNat_append_bits, toNat_append_bits]
  omega

@[simp] theorem toNat_condOp (x : BitVec 3) (k : BitVec 2) (z : BitVec 3) :
    (condOp x k z).toNat = 32 * x.toNat + 8 * k.toNat + z.toNat := by
  rw [condOp, toNat_append_bits, toNat_append_bits]
  omega

theorem opX_eq_three {b : Byte} (h0 : (opX b).toNat ≠ 0) (h1 : (opX b).toNat ≠ 1) (h2 : (opX b).toNat ≠ 2) :
    (opX b).toNat = 3 := by
  have := (opX b).isLt
  omega

@[simp] theorem opX_octal (x : BitVec 2) (y z : BitVec 3) : opX (octal x y z) = x := by
  apply BitVec.eq_of_toNat_eq
  rw [toNat_opX, toNat_octal]
  omega

@[simp] theorem opY_octal (x : BitVec 2) (y z : BitVec 3) : opY (octal x y z) = y := by
  apply BitVec.eq_of_toNat_eq
  rw [toNat_opY, toNat_octal]
  omega

@[simp] theorem opZ_octal (x : BitVec 2) (y z : BitVec 3) : opZ (octal x y z) = z := by
  apply BitVec.eq_of_toNat_eq
  rw [toNat_opZ, toNat_octal]
  omega

/-- Every byte is `xx yyy zzz` for its own fields. -/
theorem octal_fields (b : Byte) : octal (opX b) (opY b) (opZ b) = b := by
  apply BitVec.eq_of_toNat_eq
  rw [toNat_octal, toNat_opX, toNat_opY, toNat_opZ]
  omega

/-! ### The encoding of what the decoder reads

Each branch of the decoder fixes fields of the byte, and the opcode that the encoder writes for the branch is the number of
those fields: after the split along the branches, what is left is arithmetic. -/

theorem encode_decodeAlu : ∀ y z : BitVec 3, encode (decodeAlu y (regOfCode z)) = [octal 2 y z] := by decide

theorem encode_decodeShift : ∀ y z : BitVec 3, encode (decodeShift y (regOfCode z)) = withCb (octal 0 y z) := by
  decide

theorem encode_decodeAluImm (y : BitVec 3) (n : Byte) : encode (decodeAluImm y n) = [octal 3 y 6, n] := by
  have := y.isLt
  unfold decodeAluImm
  split
  all_goals
    simp [encode, BitVec.toNat_eq] at *
    omega

theorem encode_decodeCb (b : Byte) : encode (decodeCb b) = withCb b := by
  unfold decodeCb
  split
  case h_1 =>
    rw [encode_decodeShift]
    simp [withCb, BitVec.toNat_eq] at *
    omega
  all_goals
    simp [encode, withCb, BitVec.toNat_eq] at *
    omega

/-- `LD r,r'`, its (HL) forms and HALT carry their codes in y and z (30_encoding.md R130). -/
theorem encode_decodeBlock1 {b : Byte} (hx : (opX b).toNat = 1) : encode (decodeBlock1 b) = [b] := by
  unfold decodeBlock1
  split
  all_goals
    simp [encode, BitVec.toNat_eq] at *
    omega

theorem encode_decodeBlock0_prefix {b : Byte} (d1 d2 : Byte) (hx : (opX b).toNat = 0) :
    encode (decodeBlock0 b d1 d2) <+: [b, d1, d2] := by
  unfold decodeBlock0
  repeat' split
  all_goals
    simp [encode, withWord, List.cons_prefix_cons, BitVec.toNat_eq] at *
    omega

theorem encode_decodeBlock3_prefix {b : Byte} (d1 d2 : Byte) (hx : (opX b).toNat = 3) :
    encode (decodeBlock3 b d1 d2) <+: [b, d1, d2] := by
  unfold decodeBlock3
  split
  case h_4 =>
    split
    case h_2 =>
      rw [encode_decodeCb]
      simp [withCb, List.cons_prefix_cons, BitVec.toNat_eq] at *
      omega
    all_goals
      simp [encode, withWord, List.cons_prefix_cons, BitVec.toNat_eq] at *
      omega
  case h_7 =>
    rw [encode_decodeAluImm]
    simp [List.cons_prefix_cons, BitVec.toNat_eq] at *
    omega
  all_goals
    repeat' split
  all_goals
    simp [encode, withWord, List.cons_prefix_cons, BitVec.toNat_eq] at *
    omega

/-- The bytes that an instruction is read from begin with its encoding (30_encoding.md R136). -/
theorem encode_decodeBytes_prefix (b d1 d2 : Byte) : encode (decodeBytes b d1 d2) <+: [b, d1, d2] := by
  unfold decodeBytes
  split
  case h_1 hx => exact encode_decodeBlock0_prefix d1 d2 hx
  case h_2 hx =>
    rw [encode_decodeBlock1 hx]
    exact ⟨[d1, d2], rfl⟩
  case h_3 hx =>
    rw [encode_decodeAlu, ← BitVec.eq_of_toNat_eq (y := 2) hx, octal_fields]
    exact ⟨[d1, d2], rfl⟩
  case h_4 h0 h1 h2 => exact encode_decodeBlock3_prefix d1 d2 (opX_eq_three h0 h1 h2)

theorem Instr.wf_of_ne_popRr_af {i : Instr} (h : i ≠ .popRr .af) : i.wf = true := by
  cases i
  case popRr p => exact bne_iff_ne.mpr fun e => h (congrArg Instr.popRr e)
  all_goals rfl

/-- The encoding of the one ill-formed instruction begins with 0xF1, which is read as POP AF (41_load16.md R205). -/
theorem decodeBytes_wf (b d1 d2 : Byte) : (decodeBytes b d1 d2).wf = true := by
  apply Instr.wf_of_ne_popRr_af
  intro read
  have pre := encode_decodeBytes_prefix b d1 d2
  rw [read] at pre
  obtain rfl : 0xF1 = b := (List.cons_prefix_cons.mp pre).1
  nomatch read

/-- The family `Laws.EncodedLength` for every instruction. -/
theorem encode_length (i : Instr) : (encode i).length = i.size := by
  cases i <;> rfl

theorem encode_length_bounds (i : Instr) : 1 ≤ (encode i).length ∧ (encode i).length ≤ 3 := by
  cases i <;> simp [encode, withWord, withCb]

/-- Settles O6: the bytes read begin with the encoding, whose length is the instruction's. -/
theorem encodeOfDecodeIsTheBytes : Obligations.EncodeOfDecodeIsTheBytes := by
  intro b d1 d2
  rw [← encode_length]
  exact ⟨decodeBytes_wf b d1 d2, List.prefix_iff_eq_take.mp (encode_decodeBytes_prefix b d1 d2), encode_length_bounds _⟩

/-! ### Reading what the encoder wrote -/

theorem decodeBytes_block1 (y z : BitVec 3) (d1 d2 : Byte) :
    decodeBytes (octal 1 y z) d1 d2 = decodeBlock1 (octal 1 y z) := by
  rw [decodeBytes, opX_octal]
  rfl

theorem decodeBytes_alu (y : BitVec 3) (r : Reg8) (d1 d2 : Byte) :
    decodeBytes (octal 2 y r.code) d1 d2 = decodeAlu y (some r) := by
  rw [decodeBytes, opX_octal, opY_octal, opZ_octal, regOfCode_code]
  rfl

theorem decodeBytes_shift (y : BitVec 3) (r : Reg8) (d2 : Byte) :
    decodeBytes 0xCB (octal 0 y r.code) d2 = decodeShift y (some r) := by
  change decodeCb _ = _
  rw [decodeCb, opX_octal, opY_octal, opZ_octal, regOfCode_code]
  rfl

/-- Bytes that begin with the encoding of a well-formed instruction are read as that instruction, by cases over the formats
of 30_encoding.md R121 and the operands in the opcode byte. -/
theorem decodeBytes_of_encode_prefix {i : Instr} (wf : i.wf = true) {b d1 d2 : Byte} (h : encode i <+: [b, d1, d2]) :
    decodeBytes b d1 d2 = i := by
  cases i
  all_goals simp only [encode, withWord, withCb, List.cons_prefix_cons, List.nil_prefix, and_true] at h
  -- a word after the opcode
  case ldA16A w | ldAA16 w | ldA16Sp w | jpA16 w | callA16 w =>
    obtain ⟨rfl, rfl, rfl⟩ := h
    exact congrArg _ (wordOf_halves w)
  case ldRrD16 p w =>
    obtain ⟨rfl, rfl, rfl⟩ := h
    cases p <;> exact congrArg _ (wordOf_halves w)
  case jpCcA16 k w | callCcA16 k w =>
    obtain ⟨rfl, rfl, rfl⟩ := h
    cases k <;> exact congrArg _ (wordOf_halves w)
  -- the second byte of the prefix 0xCB
  case rlcR r | rrcR r | rlR r | rrR r | slaR r | sraR r | swapR r | srlR r =>
    obtain ⟨rfl, rfl⟩ := h
    exact decodeBytes_shift _ r d2
  case bitR | resR | setR | bitHl | resHl | setHl =>
    obtain ⟨rfl, rfl⟩ := h
    change decodeCb _ = _
    simp [decodeCb]
  case rlcHl | rrcHl | rlHl | rrHl | slaHl | sraHl | swapHl | srlHl =>
    obtain ⟨rfl, rfl⟩ := h
    rfl
  -- a byte after the opcode
  case ldRD8 r n =>
    obtain ⟨rfl, rfl⟩ := h
    simp [decodeBytes, decodeBlock0]
  case jrCcE8 k e =>
    obtain ⟨rfl, rfl⟩ := h
    cases k <;> rfl
  case ldHlD8 | ldhA8A | ldhAA8 | ldHlSpE8 | addSpE8 | jrE8 | stop | addAD8 | adcAD8 | subAD8 | sbcAD8 | andAD8 | xorAD8
      | orAD8 | cpAD8 =>
    obtain ⟨rfl, rfl⟩ := h
    rfl
  -- the opcode alone
  all_goals subst h
  case popRr p =>
    cases p
    case af => nomatch wf
    all_goals rfl
  case pushRr p | addHlRr p | incRr p | decRr p => cases p <;> rfl
  case retCc k => cases k <;> rfl
  case rstT t => simp [decodeBytes, decodeBlock3]
  case ldRR | ldRHl | ldHlR => 
    rw [decodeBytes_block1]
    simp [decodeBlock1]
  case addAR r | adcAR r | subAR r | sbcAR r | andAR r | xorAR r | orAR r | cpAR r => exact decodeBytes_alu _ r d1 d2
  case incR | decR => simp [decodeBytes, decodeBlock0]
  all_goals rfl

/-- At most three bytes are a prefix of the first three bytes of a list that begins with them. -/
theorem prefix_first_three {bytes : List Byte} (rest : List Byte) (h : bytes.length ≤ 3) :
    bytes <+: [(bytes ++ rest).getD 0 0, (bytes ++ rest).getD 1 0, (bytes ++ rest).getD 2 0] := by
  match bytes with
  | [] => simp
  | [_] => simp
  | [_, _] => simp
  | [_, _, _] => simp
  | _ :: _ :: _ :: _ :: _ =>
    simp only [List.length_cons] at h
    omega

theorem decode_of_read {bytes : List Byte} {i : Instr} (pos : 1 ≤ bytes.length) (whole : i.size ≤ bytes.length)
    (read : decodeBytes (bytes.getD 0 0) (bytes.getD 1 0) (bytes.getD 2 0) = i) :
    decode bytes = .ok (i, bytes.drop i.size) := by
  obtain _ | ⟨b, rest⟩ := bytes
  · nomatch pos
  · subst read
    exact if_neg (Nat.not_lt.mpr whole)

/-- Settles O5: the first three bytes begin with the encoding, so they are read as the instruction, and what is dropped is the
encoding. -/
theorem decodeOfEncodeIsIdentity : Obligations.DecodeOfEncodeIsIdentity := by
  intro i rest wf
  obtain ⟨pos, le⟩ := encode_length_bounds i
  have read := decodeBytes_of_encode_prefix wf (prefix_first_three rest le)
  rw [decode_of_read (by rw [List.length_append]; omega) (by rw [List.length_append, encode_length]; omega) read,
    ← encode_length, List.drop_left]

/-- Settles O7: the decoder evaluated on each of the fourteen words. -/
theorem specWordsDecode : Obligations.SpecWordsDecode := by
  unfold Obligations.SpecWordsDecode
  decide

end Sys2Proof
end

section
/-! How an encoding and the result of a meaning give a claim, in the terms of the rules: opcode bytes from the numbers of
their fields (30_encoding.md R121..R127), and a completed instruction from the update that its meaning finishes with. -/

namespace Sys2Proof.Machine

/-! ### Opcode bytes -/

theorem toNat_code (r : Reg8) : r.code.toNat = regNumber r := by cases r <;> rfl

theorem octal_eq_op (x : BitVec 2) (y z : BitVec 3) : octal x y z = op (64 * x.toNat + 8 * y.toNat + z.toNat) := by
  rw [← toNat_octal, op, BitVec.ofNat_toNat, BitVec.setWidth_eq]

/-- An opcode byte with a register in its low field. -/
theorem octal_low_code (x : BitVec 2) (y : BitVec 3) (r : Reg8) :
    octal x y r.code = op (64 * x.toNat + 8 * y.toNat + regNumber r) := by
  rw [octal_eq_op, toNat_code]

/-- An opcode byte with a register in its middle field. -/
theorem octal_mid_code (x : BitVec 2) (r : Reg8) (z : BitVec 3) :
    octal x r.code z = op (64 * x.toNat + z.toNat + 8 * regNumber r) := by
  rw [octal_eq_op, toNat_code, Nat.add_right_comm]

theorem withWord_eq_halves (b : Byte) (w : Word) : withWord b w = [b, lowHalf w, highHalf w] := by
  rw [withWord, loByte_eq_lowHalf, hiByte_eq_highHalf]

/-! ### Completed instructions -/

section Completed

variable {i : Instr} {bytes : List Byte} {s : State} {n : Nat} (enc : encode i = bytes) (len : i.length = bytes.length)
include enc len

theorem completes_of_setReg {r : Reg8} {x : Byte} (run : exec i s = finish n (s.setReg r x)) :
    Completes i bytes s n (s.cpu.put r x) := by
  rw [State.setReg_eq, finish_reframe] at run
  exact completes_of_exec enc len run

theorem completes_of_setReg_setHl {r : Reg8} {x : Byte} {w : Word}
    (run : exec i s = finish n ((s.setReg r x).setHl w)) :
    Completes i bytes s n ((s.cpu.put r x).putPair .hl w) := by
  rw [State.setHl_eq, State.setReg_eq, State.reframe_reframe, finish_reframe] at run
  exact completes_of_exec enc len run

theorem completesStoring_of_memWrite {a : Word} {x : Byte} (run : exec i s = finish n (s.memWrite a x)) :
    CompletesStoring i bytes s n s.cpu [(a, x)] := by
  rw [State.memWrite_storeAll, finish_reframe] at run
  exact completesStoring_of_exec enc len run

theorem completesStoring_of_memWrite_setHl {a : Word} {x : Byte} {w : Word}
    (run : exec i s = finish n ((s.memWrite a x).setHl w)) :
    CompletesStoring i bytes s n (s.cpu.putPair .hl w) [(a, x)] := by
  rw [State.setHl_eq, State.memWrite_storeAll, State.reframe_reframe, finish_reframe] at run
  exact completesStoring_of_exec enc len run

end Completed

end Sys2Proof.Machine
end

section
/-! The 8-bit loads (40_load8.md). Each meaning finishes with one register update or one write; what is left is to name its
address and its operand as the rule does. -/

namespace Sys2Proof.Machine

/-! ### Encodings by the numbers of their operands (30_encoding.md R121..R123, R127) -/

theorem encode_ldRR (dst src : Reg8) : encode (.ldRR dst src) = [op (0x40 + 8 * regNumber dst + regNumber src)] := by
  rw [encode, octal_low_code, toNat_code]
  rfl

theorem encode_ldRHl (dst : Reg8) : encode (.ldRHl dst) = [op (0x46 + 8 * regNumber dst)] :=
  congrArg ([·]) (octal_mid_code 1 dst 6)

theorem encode_ldRD8 (dst : Reg8) (n : Byte) : encode (.ldRD8 dst n) = [op (0x06 + 8 * regNumber dst), n] :=
  congrArg ([·, n]) (octal_mid_code 0 dst 6)

theorem encode_ldHlR (src : Reg8) : encode (.ldHlR src) = [op (0x70 + regNumber src)] :=
  congrArg ([·]) (octal_low_code 1 6 src)

theorem encode_ldAA16 (w : Word) : encode (.ldAA16 w) = [0xFA, lowHalf w, highHalf w] := withWord_eq_halves 0xFA w

theorem encode_ldA16A (w : Word) : encode (.ldA16A w) = [0xEA, lowHalf w, highHalf w] := withWord_eq_halves 0xEA w

/-! ### The obligations -/

/-- Settles O8: each of the three finishes with its source byte in the destination. -/
theorem loadsIntoRegister : Obligations.LoadsIntoRegister := by
  intro s
  refine ⟨fun dst src => ?_, fun dst => ?_, fun dst n => ?_⟩
  · exact completes_of_setReg (encode_ldRR dst src) rfl (by rw [← State.reg_eq]; rfl)
  · exact completes_of_setReg (encode_ldRHl dst) rfl (by rw [← State.hlByte_eq]; rfl)
  · exact completes_of_setReg (encode_ldRD8 dst n) rfl rfl

/-- Settles O9: each of the seven finishes with the byte at its address in A, and (HL+), (HL-) with HL stepped after it. -/
theorem loadsAccumulatorFromMemory : Obligations.LoadsAccumulatorFromMemory := by
  intro s
  refine ⟨?bc, ?de, ?hlInc, ?hlDec, fun n => ?a8, ?c, fun w => ?a16⟩
  case bc => exact completes_of_setReg rfl rfl (by rw [← State.bc_eq]; rfl)
  case de => exact completes_of_setReg rfl rfl (by rw [← State.de_eq]; rfl)
  case hlInc =>
    exact completes_of_setReg_setHl rfl rfl (by rw [← word_add_one, ← State.hlByte_eq, ← State.hl_eq]; rfl)
  case hlDec =>
    exact completes_of_setReg_setHl rfl rfl (by rw [← word_sub_one, ← State.hlByte_eq, ← State.hl_eq]; rfl)
  case a8 => exact completes_of_setReg rfl rfl (by rw [← highPage_eq]; rfl)
  case c => exact completes_of_setReg rfl rfl (by rw [← highPage_eq]; rfl)
  case a16 => exact completes_of_setReg (encode_ldAA16 w) rfl rfl

/-- Settles O10: each of the nine finishes with one write, of its byte to its address, and (HL+), (HL-) with HL stepped
after it. -/
theorem storesOneByte : Obligations.StoresOneByte := by
  intro s
  refine ⟨fun r => ?hlR, fun n => ?hlD8, ?bc, ?de, ?hlInc, ?hlDec, fun n => ?a8, ?c, fun w => ?a16⟩
  case hlR => exact completesStoring_of_memWrite (encode_ldHlR r) rfl (by rw [← State.reg_eq, ← State.hl_eq]; rfl)
  case hlD8 => exact completesStoring_of_memWrite rfl rfl (by rw [← State.hl_eq]; rfl)
  case bc => exact completesStoring_of_memWrite rfl rfl (by rw [← State.bc_eq]; rfl)
  case de => exact completesStoring_of_memWrite rfl rfl (by rw [← State.de_eq]; rfl)
  case hlInc => exact completesStoring_of_memWrite_setHl rfl rfl (by rw [← word_add_one, ← State.hl_eq]; rfl)
  case hlDec => exact completesStoring_of_memWrite_setHl rfl rfl (by rw [← word_sub_one, ← State.hl_eq]; rfl)
  case a8 => exact completesStoring_of_memWrite rfl rfl (by rw [← highPage_eq]; rfl)
  case c => exact completesStoring_of_memWrite rfl rfl (by rw [← highPage_eq]; rfl)
  case a16 => exact completesStoring_of_memWrite (encode_ldA16A w) rfl rfl

end Sys2Proof.Machine
end

section
/-! The 16-bit loads and stack transfers (41_load16.md). Each meaning finishes with one pair update, with two writes, or with
a pop into a stack pair; what is left is to name its opcode, its operand and its flags as the rule does. -/

namespace Sys2Proof.Machine

/-! ### Opcode bytes with a pair in the field `pp` (30_encoding.md R122, R124, R125) -/

theorem toNat_pairCode (p : Pair) : p.code.toNat = pairNumber p := by cases p <;> rfl

theorem toNat_stackPairCode (p : StackPair) : p.code.toNat = stackPairNumber p := by cases p <;> rfl

theorem quad_eq_op (x p : BitVec 2) (z : BitVec 4) : quad x p z = op (64 * x.toNat + z.toNat + 16 * p.toNat) := by
  rw [Nat.add_right_comm, ← toNat_quad, op, BitVec.ofNat_toNat, BitVec.setWidth_eq]

theorem quad_pairCode (x : BitVec 2) (p : Pair) (z : BitVec 4) :
    quad x p.code z = op (64 * x.toNat + z.toNat + 16 * pairNumber p) := by
  rw [quad_eq_op, toNat_pairCode]

theorem quad_stackPairCode (x : BitVec 2) (p : StackPair) (z : BitVec 4) :
    quad x p.code z = op (64 * x.toNat + z.toNat + 16 * stackPairNumber p) := by
  rw [quad_eq_op, toNat_stackPairCode]

theorem encode_ldRrD16 (p : Pair) (w : Word) :
    encode (.ldRrD16 p w) = [op (0x01 + 16 * pairNumber p), lowHalf w, highHalf w] := by
  rw [encode, withWord_eq_halves, quad_pairCode]
  rfl

theorem encode_ldA16Sp (w : Word) : encode (.ldA16Sp w) = [0x08, lowHalf w, highHalf w] := withWord_eq_halves 0x08 w

theorem encode_pushRr (p : StackPair) : encode (.pushRr p) = [op (0xC5 + 16 * stackPairNumber p)] :=
  congrArg ([·]) (quad_stackPairCode 3 p 5)

/-! ### SP with a signed offset (41_load16.md R203; 43_alu16.md R283) -/

theorem addSpOffset_value (sp : Word) (e : Byte) : (addSpOffset sp e).value = offsetBy sp e := add_sext16_eq_offsetBy sp e

theorem State.setFlags_addSpOffset (s : State) (sp : Word) (e : Byte) :
    s.setFlags (addSpOffset sp e).flags = s.reframe { s.cpu with f := spOffsetFlags sp e } s.out := by
  rw [State.setFlags_eq]
  rfl

/-! ### A pop into a stack pair (41_load16.md R205, R206) -/

/-- `v` with a stack pair replaced by two bytes; of the byte for F only the four flags are kept. -/
def Cpu.putStackPair (v : Cpu) (p : StackPair) (hi lo : Byte) : Cpu :=
  match p with
  | .bc => { v with b := hi, c := lo }
  | .de => { v with d := hi, e := lo }
  | .hl => { v with h := hi, l := lo }
  | .af => { v with a := hi, f := flagByte (zOf lo) (nOf lo) (hOf lo) (cOf lo) }

theorem State.setStackPair_wordOf (s : State) (p : StackPair) (hi lo : Byte) :
    s.setStackPair p (wordOf hi lo) = s.reframe (s.cpu.putStackPair p hi lo) s.out := by
  cases p
  case af =>
    rw [State.setStackPair, hiByte_wordOf, loByte_wordOf, and_f0_eq_flagByte]
    rfl
  all_goals
    simp only [State.setStackPair, State.setBc, State.setDe, State.setHl, hiByte_wordOf, loByte_wordOf]
    rfl

/-- Everything `rr2[p] <- Pop16()` does. -/
theorem State.popDrop_setStackPair_popValue (s : State) (p : StackPair) : s.popDrop.setStackPair p s.popValue =
    s.reframe
      (({ s.cpu with sp := BitVec.ofNat 16 (s.cpu.sp.toNat + 2) } : Cpu).putStackPair p
        (s.memRead (BitVec.ofNat 16 (s.cpu.sp.toNat + 1))) (s.memRead s.cpu.sp)) s.out := by
  rw [State.popValue, State.memRead16, State.setStackPair_wordOf, State.popDrop, word_add_one, word_add_two]
  rfl

/-! ### What each meaning finishes with -/

theorem completes_of_setPair {i : Instr} {bytes : List Byte} {s : State} {n : Nat} {p : Pair} {w : Word}
    (enc : encode i = bytes) (len : i.length = bytes.length) (run : exec i s = finish n (s.setPair p w)) :
    Completes i bytes s n (s.cpu.putPair p w) := by
  rw [State.setPair_eq, finish_reframe] at run
  exact completes_of_exec enc len run

/-- A pop completes with the byte at SP + 1 in the high register, the byte at SP in the low one, and SP + 2. -/
theorem completes_of_pop {i : Instr} {bytes : List Byte} {s : State} {n : Nat} (p : StackPair) (enc : encode i = bytes)
    (len : i.length = bytes.length) (run : exec i s = finish n (s.popDrop.setStackPair p s.popValue)) :
    Completes i bytes s n
      (({ s.cpu with sp := BitVec.ofNat 16 (s.cpu.sp.toNat + 2) } : Cpu).putStackPair p
        (s.memRead (BitVec.ofNat 16 (s.cpu.sp.toNat + 1))) (s.memRead s.cpu.sp)) := by
  rw [State.popDrop_setStackPair_popValue, finish_reframe] at run
  exact completes_of_exec enc len run

theorem exec_ldSpHl (s : State) :
    exec .ldSpHl s = finish 8 (s.reframe { s.cpu with sp := s.addrHl } s.out) := by
  rw [← State.hl_eq]
  rfl

theorem exec_ldHlSpE8 (s : State) (e : Byte) : exec (.ldHlSpE8 e) s =
    finish 12 (s.reframe { s.cpu.putPair .hl (offsetBy s.cpu.sp e) with f := spOffsetFlags s.cpu.sp e } s.out) := by
  rw [exec, execLdHlSpE8, addSpOffset_value, State.setFlags_addSpOffset, State.setHl_eq]
  rfl

theorem exec_ldA16Sp (s : State) (w : Word) : exec (.ldA16Sp w) s =
    finish 20 ((s.storeAll [(w, lowHalf s.cpu.sp), (BitVec.ofNat 16 (w.toNat + 1), highHalf s.cpu.sp)]).reframe s.cpu
      s.out) := by
  rw [← State.memWrite16_eq]
  rfl

theorem exec_pushRr (s : State) (p : StackPair) : exec (.pushRr p) s =
    finish 16
      ((s.storeAll [(s.cpu.sp - 1, highHalf (s.cpu.stackValue p)), (s.cpu.sp - 2, lowHalf (s.cpu.stackValue p))]).reframe
        { s.cpu with sp := s.cpu.sp - 2 } s.out) := by
  rw [← State.push16_eq, ← State.stackPair_eq]
  rfl

/-! ### The obligations -/

/-- Settles O11: the three finish with the word in the pair, with HL in SP, and with SP plus the offset in HL and its carries
in F. -/
theorem loadsIntoPair : Obligations.LoadsIntoPair := by
  intro s
  refine ⟨fun p w => ?rrD16, ?spHl, fun e => ?hlSpE8⟩
  case rrD16 => exact completes_of_setPair (encode_ldRrD16 p w) rfl rfl
  case spHl => exact completes_of_exec rfl rfl (exec_ldSpHl s)
  case hlSpE8 => exact completes_of_exec rfl rfl (exec_ldHlSpE8 s e)

/-- Settles O12: both finish with two writes, in the order of the rule. -/
theorem storesTwoBytes : Obligations.StoresTwoBytes := by
  intro s
  refine ⟨fun w => ?a16Sp, fun p => ?push⟩
  case a16Sp => exact completesStoring_of_exec (encode_ldA16Sp w) rfl (exec_ldA16Sp s w)
  case push => exact completesStoring_of_exec (encode_pushRr p) rfl (exec_pushRr s p)

/-- Settles O13: each of the four finishes with a pop into its pair, and F takes only the flags of the low byte. -/
theorem popsPair : Obligations.PopsPair := by
  intro s
  exact ⟨completes_of_pop .bc rfl rfl rfl, completes_of_pop .de rfl rfl rfl, completes_of_pop .hl rfl rfl rfl,
    completes_of_pop .af rfl rfl rfl⟩

end Sys2Proof.Machine
end

section
/-! The 8-bit arithmetic and logic instructions (42_alu8.md). Each result of the model is first written in the arithmetic of
the rules; each meaning then finishes with one such result, in A, in a register, at (HL) or in F alone. -/

namespace Sys2Proof.Machine

/-! ### Results in the arithmetic of the rules -/

theorem ofNat_beq_zero (n : Nat) : (BitVec.ofNat 8 n == 0) = decide (n % 256 = 0) := by
  rw [byte_beq_zero, BitVec.toNat_ofNat]

theorem ofInt_beq_zero (k : Int) : (BitVec.ofInt 8 k == 0) = decide (k % 256 = 0) := by
  rw [byte_beq_zero, BitVec.toNat_ofInt, decide_eq_decide]
  omega

theorem byte_add_one (x : Byte) : x + 1 = BitVec.ofNat 8 (x.toNat + 1) := by
  apply BitVec.eq_of_toNat_eq
  rw [BitVec.toNat_add, BitVec.toNat_ofNat]
  rfl

theorem byte_sub_one (x : Byte) : x - 1 = BitVec.ofNat 8 (x.toNat + 255) := by
  apply BitVec.eq_of_toNat_eq
  rw [BitVec.toNat_sub, BitVec.toNat_ofNat, Nat.add_comm]
  rfl

theorem addWithCarry_eq (a b : Byte) (c : Bool) : addWithCarry a b c =
    { value := BitVec.ofNat 8 (a.toNat + b.toNat + c.toNat)
      flags :=
        { z := decide ((a.toNat + b.toNat + c.toNat) % 256 = 0)
          n := false
          h := decide (a.toNat % 16 + b.toNat % 16 + c.toNat > 0xF)
          c := decide (a.toNat + b.toNat + c.toNat > 0xFF) } } := by
  rw [addWithCarry, ofNat_beq_zero]

theorem subWithBorrow_eq (a b : Byte) (c : Bool) : subWithBorrow a b c =
    { value := BitVec.ofInt 8 ((a.toNat : Int) - b.toNat - c.toNat)
      flags :=
        { z := decide (((a.toNat : Int) - b.toNat - c.toNat) % 256 = 0)
          n := true
          h := decide (a.toNat % 16 < b.toNat % 16 + c.toNat)
          c := decide (a.toNat < b.toNat + c.toNat) } } := by
  rw [subWithBorrow, sub_value, ofInt_beq_zero]

theorem incByte_eq (x : Byte) (c : Bool) : incByte x c =
    { value := BitVec.ofNat 8 (x.toNat + 1)
      flags := { z := decide ((x.toNat + 1) % 256 = 0), n := false, h := decide (x.toNat % 16 = 15), c := c } } := by
  rw [incByte, byte_add_one, ofNat_beq_zero]

theorem decByte_eq (x : Byte) (c : Bool) : decByte x c =
    { value := BitVec.ofNat 8 (x.toNat + 255)
      flags := { z := decide ((x.toNat + 255) % 256 = 0), n := true, h := decide (x.toNat % 16 = 0), c := c } } := by
  rw [decByte, byte_sub_one, ofNat_beq_zero]

/-- The two adjustments share no bit, so setting the bits of both adds them. -/
theorem toNat_daaAdjustment (low high : Bool) :
    ((if low then 0x06 else 0x00 : Byte) ||| (if high then 0x60 else 0x00)).toNat =
      (if low then 0x06 else 0) + (if high then 0x60 else 0) := by
  cases low <;> cases high <;> rfl

theorem toNat_decimalAdjust (a : Byte) (g : Flags) :
    (decimalAdjust a g).value.toNat = daaValue a.toNat g.n g.h g.c := by
  obtain ⟨z, n, h, c⟩ := g
  cases n
  case false =>
    simp only [decimalAdjust, daaValue, Bool.false_eq_true, if_false, Bool.not_false, Bool.true_and, BitVec.toNat_add,
      toNat_daaAdjustment]
  case true =>
    simp only [decimalAdjust, daaValue, if_true, Bool.not_true, Bool.false_and, Bool.or_false, BitVec.toNat_sub,
      toNat_daaAdjustment]
    have := a.isLt
    split <;> split <;> omega

theorem decimalAdjust_eq (a : Byte) (g : Flags) : decimalAdjust a g =
    { value := BitVec.ofNat 8 (daaValue a.toNat g.n g.h g.c)
      flags :=
        { z := decide (daaValue a.toNat g.n g.h g.c = 0), n := g.n, h := false, c := daaCarry a.toNat g.n g.c } } := by
  rw [← toNat_decimalAdjust, BitVec.ofNat_toNat, BitVec.setWidth_eq, ← byte_beq_zero]
  obtain ⟨z, n, h, c⟩ := g
  cases n <;> simp [decimalAdjust, daaCarry]

theorem State.flags_eq (s : State) :
    s.flags = { z := zOf s.cpu.f, n := nOf s.cpu.f, h := hOf s.cpu.f, c := cOf s.cpu.f } := by
  rw [State.flags, flagZ_eq, flagN_eq, flagH_eq, flagC_eq]

/-! ### What each meaning finishes with -/

section Alu8

variable {i : Instr} {bytes : List Byte} {s : State} {n : Nat} {r : Reg8} {x b : Byte} {z sub h c : Bool}
  (enc : encode i = bytes) (len : i.length = bytes.length)
include enc len

theorem completes_of_accumulate (run : exec i s = finish n (s.accumulate ⟨x, ⟨z, sub, h, c⟩⟩)) :
    Completes i bytes s n { s.cpu with a := x, f := flagByte z sub h c } := by
  rw [State.accumulate_eq, finish_reframe] at run
  exact completes_of_exec enc len run

theorem completes_of_setFlags (run : exec i s = finish n (s.setFlags ⟨z, sub, h, c⟩)) :
    Completes i bytes s n { s.cpu with f := flagByte z sub h c } := by
  rw [State.setFlags_eq, finish_reframe] at run
  exact completes_of_exec enc len run

theorem completes_of_resultToReg (run : exec i s = finish n (s.resultToReg r ⟨x, ⟨z, sub, h, c⟩⟩)) :
    Completes i bytes s n { s.cpu.put r x with f := flagByte z sub h c } := by
  rw [State.resultToReg_eq, finish_reframe] at run
  exact completes_of_exec enc len run

theorem completesStoring_of_resultToHl (run : exec i s = finish n (s.resultToHl ⟨x, ⟨z, sub, h, c⟩⟩)) :
    CompletesStoring i bytes s n { s.cpu with f := flagByte z sub h c } [(s.addrHl, x)] := by
  rw [State.resultToHl_eq, finish_reframe] at run
  exact completesStoring_of_exec enc len run

theorem completes_added (run : exec i s = finish n (s.accumulate (addWithCarry s.cpu.a b c))) :
    Completes i bytes s n (s.cpu.added b c) := by
  rw [addWithCarry_eq] at run
  exact completes_of_accumulate enc len run

theorem completes_subtracted (run : exec i s = finish n (s.accumulate (subWithBorrow s.cpu.a b c))) :
    Completes i bytes s n (s.cpu.subtracted b c) := by
  rw [subWithBorrow_eq] at run
  exact completes_of_accumulate enc len run

theorem completes_compared (run : exec i s = finish n (s.setFlags (subWithBorrow s.cpu.a b false).flags)) :
    Completes i bytes s n { s.cpu with f := s.cpu.subFlags b false } := by
  rw [subWithBorrow_eq] at run
  exact completes_of_setFlags enc len run

theorem completes_logical (run : exec i s = finish n (s.accumulate ⟨x, ⟨x == 0, false, h, false⟩⟩)) :
    Completes i bytes s n (s.cpu.logical x h) := by
  rw [byte_beq_zero] at run
  exact completes_of_accumulate enc len run

end Alu8

/-! ### Opcode bytes of the register forms (30_encoding.md R122, R123) -/

/-- The operator of an accumulator instruction is the middle field of its opcode, the register the low one. -/
theorem encode_decodeAlu_some (y : BitVec 3) (r : Reg8) :
    encode (decodeAlu y (some r)) = [op (0x80 + 8 * y.toNat + regNumber r)] := by
  rw [← regOfCode_code, encode_decodeAlu, octal_low_code]
  rfl

theorem encode_incR (r : Reg8) : encode (.incR r) = [op (0x04 + 8 * regNumber r)] :=
  congrArg ([·]) (octal_mid_code 0 r 4)

theorem encode_decR (r : Reg8) : encode (.decR r) = [op (0x05 + 8 * regNumber r)] :=
  congrArg ([·]) (octal_mid_code 0 r 5)

/-! ### The obligations -/

/-- Settles O14: the six finish with the sum of A, their operand and, for ADC, the carry. -/
theorem addsToAccumulator : Obligations.AddsToAccumulator := by
  intro s
  refine ⟨fun r => ?addR, ?addHl, fun n => ?addD8, fun r => ?adcR, ?adcHl, fun n => ?adcD8⟩
  case addR => exact completes_added (encode_decodeAlu_some 0 r) rfl (by rw [← State.reg_eq]; rfl)
  case addHl => exact completes_added rfl rfl (by rw [← State.hlByte_eq]; rfl)
  case addD8 => exact completes_added rfl rfl rfl
  case adcR => exact completes_added (encode_decodeAlu_some 1 r) rfl (by rw [← State.reg_eq, ← flagC_eq]; rfl)
  case adcHl => exact completes_added rfl rfl (by rw [← State.hlByte_eq, ← flagC_eq]; rfl)
  case adcD8 => exact completes_added rfl rfl (by rw [← flagC_eq]; rfl)

/-- Settles O15: the six finish with A less their operand and, for SBC, less the carry. -/
theorem subtractsFromAccumulator : Obligations.SubtractsFromAccumulator := by
  intro s
  refine ⟨fun r => ?subR, ?subHl, fun n => ?subD8, fun r => ?sbcR, ?sbcHl, fun n => ?sbcD8⟩
  case subR => exact completes_subtracted (encode_decodeAlu_some 2 r) rfl (by rw [← State.reg_eq]; rfl)
  case subHl => exact completes_subtracted rfl rfl (by rw [← State.hlByte_eq]; rfl)
  case subD8 => exact completes_subtracted rfl rfl rfl
  case sbcR => exact completes_subtracted (encode_decodeAlu_some 3 r) rfl (by rw [← State.reg_eq, ← flagC_eq]; rfl)
  case sbcHl => exact completes_subtracted rfl rfl (by rw [← State.hlByte_eq, ← flagC_eq]; rfl)
  case sbcD8 => exact completes_subtracted rfl rfl (by rw [← flagC_eq]; rfl)

/-- Settles O16: the nine finish with a bitwise result in A, and only AND sets H. -/
theorem logicOnAccumulator : Obligations.LogicOnAccumulator := by
  intro s
  refine ⟨fun r => ?andR, ?andHl, fun n => ?andD8, fun r => ?xorR, ?xorHl, fun n => ?xorD8, fun r => ?orR, ?orHl,
    fun n => ?orD8⟩
  case andR => exact completes_logical (encode_decodeAlu_some 4 r) rfl (by rw [← State.reg_eq]; rfl)
  case andHl => exact completes_logical rfl rfl (by rw [← State.hlByte_eq]; rfl)
  case andD8 => exact completes_logical rfl rfl rfl
  case xorR => exact completes_logical (encode_decodeAlu_some 5 r) rfl (by rw [← State.reg_eq]; rfl)
  case xorHl => exact completes_logical rfl rfl (by rw [← State.hlByte_eq]; rfl)
  case xorD8 => exact completes_logical rfl rfl rfl
  case orR => exact completes_logical (encode_decodeAlu_some 6 r) rfl (by rw [← State.reg_eq]; rfl)
  case orHl => exact completes_logical rfl rfl (by rw [← State.hlByte_eq]; rfl)
  case orD8 => exact completes_logical rfl rfl rfl

/-- Settles O17: the three finish with the flags of the subtraction in F and nothing in A. -/
theorem compareWritesOnlyFlags : Obligations.CompareWritesOnlyFlags := by
  intro s
  refine ⟨fun r => ?cpR, ?cpHl, fun n => ?cpD8⟩
  case cpR => exact completes_compared (encode_decodeAlu_some 7 r) rfl (by rw [← State.reg_eq]; rfl)
  case cpHl => exact completes_compared rfl rfl (by rw [← State.hlByte_eq]; rfl)
  case cpD8 => exact completes_compared rfl rfl rfl

/-- Settles O18: the register forms finish with the result in the register, the memory forms with one write of it to (HL),
and the carry flag is an input of both. -/
theorem incrementsAndDecrementsByte : Obligations.IncrementsAndDecrementsByte := by
  intro s
  refine ⟨fun r => ?incR, ?incHl, fun r => ?decR, ?decHl⟩
  case incR =>
    have run : exec (.incR r) s = finish 4 (s.resultToReg r (incByte (s.reg r) s.flagC)) := rfl
    rw [incByte_eq, State.reg_eq, flagC_eq] at run
    exact completes_of_resultToReg (encode_incR r) rfl run
  case incHl =>
    have run : exec .incHl s = finish 12 (s.resultToHl (incByte s.hlByte s.flagC)) := rfl
    rw [incByte_eq, State.hlByte_eq, flagC_eq] at run
    exact completesStoring_of_resultToHl rfl rfl run
  case decR =>
    have run : exec (.decR r) s = finish 4 (s.resultToReg r (decByte (s.reg r) s.flagC)) := rfl
    rw [decByte_eq, State.reg_eq, flagC_eq] at run
    exact completes_of_resultToReg (encode_decR r) rfl run
  case decHl =>
    have run : exec .decHl s = finish 12 (s.resultToHl (decByte s.hlByte s.flagC)) := rfl
    rw [decByte_eq, State.hlByte_eq, flagC_eq] at run
    exact completesStoring_of_resultToHl rfl rfl run

/-- Settles O19: DAA finishes with the adjusted A, which the model computes on bits and the rule on numbers. -/
theorem decimalAdjusts : Obligations.DecimalAdjust := by
  intro s
  have run : exec .daa s = finish 4 (s.accumulate (decimalAdjust s.cpu.a s.flags)) := rfl
  rw [decimalAdjust_eq, State.flags_eq] at run
  exact completes_of_accumulate rfl rfl run

/-- Settles O21: CPL finishes with the complement in A, SCF and CCF with F alone, and each keeps the flags it does not
name. -/
theorem complementAndCarryFlags : Obligations.ComplementAndCarryFlags := by
  intro s
  have cpl : exec .cpl s = finish 4 (s.accumulate ⟨s.cpu.a ^^^ 0xFF, { s.flags with n := true, h := true }⟩) := rfl
  have scf : exec .scf s = finish 4 (s.setFlags { s.flags with n := false, h := false, c := true }) := rfl
  have ccf : exec .ccf s = finish 4 (s.setFlags { s.flags with n := false, h := false, c := !s.flagC }) := rfl
  rw [complement_eq, State.flags_eq] at cpl
  rw [State.flags_eq] at scf
  rw [State.flags_eq, flagC_eq] at ccf
  exact ⟨completes_of_accumulate rfl rfl cpl, completes_of_setFlags rfl rfl scf, completes_of_setFlags rfl rfl ccf⟩

/-! ### Decimal addition -/

/-- The packed BCD of a number below 100. -/
def packedBcd (n : Nat) : Nat := 16 * (n / 10) + n % 10

theorem packedBcd_lt {n : Nat} (h : n < 100) : packedBcd n < 256 := by
  unfold packedBcd
  omega

theorem packedBcd_eq_zero {n : Nat} : packedBcd n = 0 ↔ n = 0 := by
  unfold packedBcd
  omega

theorem toNat_ofNat_packedBcd {n : Nat} (h : n < 100) : (BitVec.ofNat 8 (packedBcd n)).toNat = packedBcd n := by
  rw [BitVec.toNat_ofNat, Nat.mod_eq_of_lt (packedBcd_lt h)]

/-- The low digits carry: out of the nibble, or into the digits above 9. -/
theorem low_adjust_packedBcd_add (x y : Nat) :
    (decide (packedBcd x % 16 + packedBcd y % 16 > 0xF) || decide ((packedBcd x + packedBcd y) % 256 % 16 > 9)) =
      decide (10 ≤ x % 10 + y % 10) := by
  rw [← Bool.decide_or, decide_eq_decide]
  unfold packedBcd
  omega

section DecimalSum

variable {x y : Nat} (hx : x < 100) (hy : y < 100)
include hx hy

/-- The sum is 100 or more: out of the byte, or into the values above 0x99. -/
theorem high_adjust_packedBcd_add :
    (decide (packedBcd x + packedBcd y > 0xFF) || decide ((packedBcd x + packedBcd y) % 256 > 0x99)) =
      decide (100 ≤ x + y) := by
  have carry : (packedBcd x + packedBcd y > 0xFF ∨ (packedBcd x + packedBcd y) % 256 > 0x99) ↔
      0x99 < packedBcd x + packedBcd y := by
    have := packedBcd_lt hx
    have := packedBcd_lt hy
    omega
  rw [← Bool.decide_or, decide_eq_decide, carry]
  unfold packedBcd
  omega

theorem daaCarry_packedBcd_add :
    daaCarry ((packedBcd x + packedBcd y) % 256) false (decide (packedBcd x + packedBcd y > 0xFF)) =
      decide (100 ≤ x + y) := by
  rw [daaCarry, Bool.not_false, Bool.true_and, high_adjust_packedBcd_add hx hy]

theorem daaValue_packedBcd_add :
    daaValue ((packedBcd x + packedBcd y) % 256) false (decide (packedBcd x % 16 + packedBcd y % 16 > 0xF))
      (decide (packedBcd x + packedBcd y > 0xFF)) = packedBcd ((x + y) % 100) := by
  simp only [daaValue, Bool.not_false, Bool.true_and, low_adjust_packedBcd_add x y, high_adjust_packedBcd_add hx hy,
    Bool.false_eq_true, if_false, decide_eq_true_eq]
  unfold packedBcd
  split <;> split <;> omega

end DecimalSum

/-- Settles O20: ADD leaves the binary sum of the two bytes with its carries, and DAA takes that to the decimal sum. -/
theorem addThenDecimalAdjustIsDecimalSum : Obligations.AddThenDecimalAdjustIsDecimalSum := by
  intro s x y hx hy ha
  obtain ⟨-, -, addD8, -⟩ := addsToAccumulator s
  obtain ⟨-, -, t, ht, hcpu, -⟩ := addD8 (BitVec.ofNat 8 (packedBcd y))
  obtain ⟨-, -, u, hu, ucpu, -⟩ := decimalAdjusts t
  have hax : s.cpu.a.toNat = packedBcd x := by rw [ha]; exact toNat_ofNat_packedBcd hx
  simp only [hcpu, Cpu.added, hax, toNat_ofNat_packedBcd hy, BitVec.toNat_ofNat, nOf_flagByte, hOf_flagByte, cOf_flagByte,
    Bool.toNat_false, Nat.add_zero, Nat.reducePow, daaValue_packedBcd_add hx hy, daaCarry_packedBcd_add hx hy] at ucpu
  refine ⟨t, u, ht, hu, ?_, ?_, ?_⟩
  · rw [ucpu, packedBcd, Nat.mod_mod_of_dvd _ (by decide)]
  · rw [ucpu, cOf_flagByte]
  · rw [ucpu, zOf_flagByte, decide_eq_decide, packedBcd_eq_zero]

end Sys2Proof.Machine
end

section
/-! The 16-bit arithmetic instructions (43_alu16.md). INC and DEC finish with one pair update; the two ADDs finish with their
sum in HL or SP and its flags in F, once these are named as the rules do. -/

namespace Sys2Proof.Machine

/-! ### Opcode bytes with a pair in the field `pp` (30_encoding.md R122, R124) -/

theorem encode_addHlRr (p : Pair) : encode (.addHlRr p) = [op (0x09 + 16 * pairNumber p)] :=
  congrArg ([·]) (quad_pairCode 0 p 9)

theorem encode_incRr (p : Pair) : encode (.incRr p) = [op (0x03 + 16 * pairNumber p)] :=
  congrArg ([·]) (quad_pairCode 0 p 3)

theorem encode_decRr (p : Pair) : encode (.decRr p) = [op (0x0B + 16 * pairNumber p)] :=
  congrArg ([·]) (quad_pairCode 0 p 11)

/-! ### What each meaning finishes with -/

/-- R280: the sum in HL, its carries out of bits 11 and 15 in H and C, and Z as it was. -/
theorem exec_addHlRr (s : State) (p : Pair) : exec (.addHlRr p) s =
    finish 8
      (s.reframe
        { s.cpu.putPair .hl (BitVec.ofNat 16 (s.addrHl.toNat + (s.cpu.pairValue p).toNat)) with
          f := flagByte (zOf s.cpu.f) false
            (decide (s.addrHl.toNat % 4096 + (s.cpu.pairValue p).toNat % 4096 > 0xFFF))
            (decide (s.addrHl.toNat + (s.cpu.pairValue p).toNat > 0xFFFF)) } s.out) := by
  rw [exec, execAddHlRr, State.hl_eq, State.pair_eq, flagZ_eq, addWords, word_add, State.setFlags_eq, State.setHl_eq]
  rfl

theorem exec_incRr (s : State) (p : Pair) :
    exec (.incRr p) s = finish 8 (s.setPair p (BitVec.ofNat 16 ((s.cpu.pairValue p).toNat + 1))) := by
  rw [exec, execIncRr, State.pair_eq, word_add_one]

theorem exec_decRr (s : State) (p : Pair) :
    exec (.decRr p) s = finish 8 (s.setPair p (BitVec.ofNat 16 ((s.cpu.pairValue p).toNat + 0xFFFF))) := by
  rw [exec, execDecRr, State.pair_eq, word_sub_one]

/-- R283: SP plus the signed offset, with the carries of the unsigned low bytes in F. -/
theorem exec_addSpE8 (s : State) (e : Byte) : exec (.addSpE8 e) s =
    finish 16 (s.reframe { s.cpu with sp := offsetBy s.cpu.sp e, f := spOffsetFlags s.cpu.sp e } s.out) := by
  rw [exec, execAddSpE8, addSpOffset_value, State.setFlags_addSpOffset, State.setSp_eq]
  rfl

/-! ### The obligation -/

/-- Settles O22: INC and DEC finish with one pair update and leave F alone; the two ADDs finish with the sum in HL or SP and
the carries of the rule in F. -/
theorem wordArithmetic : Obligations.WordArithmetic := by
  intro s
  refine ⟨fun p => ?addHl, fun p => ?inc, fun p => ?dec, fun e => ?addSp⟩
  case addHl => exact completes_of_exec (encode_addHlRr p) rfl (exec_addHlRr s p)
  case inc => exact completes_of_setPair (encode_incRr p) rfl (exec_incRr s p)
  case dec => exact completes_of_setPair (encode_decRr p) rfl (exec_decRr s p)
  case addSp => exact completes_of_exec rfl rfl (exec_addSpE8 s e)

end Sys2Proof.Machine
end

section
/-! The rotates, shifts and bit operations (44_rotate_shift_bit.md). The eight operations of the second-byte block are one
family: the model's result of each, which is bitwise, is the number of the rule, so the three forms (A, register, (HL)) share
it. BIT, RES and SET work on the bit of weight `2 ^ n`. -/

namespace Sys2Proof.Machine

/-! ### The eight operations (R304..R319) -/

/-- What the model computes for an operation on `v` with carry `c`. -/
def Shift.result (v : Byte) (c : Bool) : Shift → Alu8
  | .rlc => rotateLeft v
  | .rrc => rotateRight v
  | .rl => rotateLeftCarry v c
  | .rr => rotateRightCarry v c
  | .sla => shiftLeft v
  | .sra => shiftRightArith v
  | .swap => swapNibbles v
  | .srl => shiftRight v

/-- Moving the bits of a byte is the arithmetic of the rule: checked on every byte and carry. -/
theorem Shift.toNat_result (k : Shift) (v : Byte) (c : Bool) : (k.result v c).value.toNat = k.value v.toNat c := by
  revert v c
  cases k <;> decide

/-- The bit moved out. -/
theorem Shift.result_carry (k : Shift) (v : Byte) (c : Bool) : (k.result v c).flags.c = k.carry v.toNat := by
  have top : bitOf v 7 = decide (v.toNat / 128 = 1) := by
    have := v.isLt
    rw [bitOf_eq_bitAt, bitAt, decide_eq_decide]
    omega
  have low : bitOf v 0 = decide (v.toNat % 2 = 1) := by
    rw [bitOf_eq_bitAt, bitAt, Nat.pow_zero, Nat.div_one]
  cases k
  case rlc | rl | sla => exact top
  case rrc | rr | sra | srl => exact low
  case swap => rfl

/-- Every operation sets Z from its result and clears N and H. -/
theorem Shift.result_eq_shifted (k : Shift) (v : Byte) (c : Bool) :
    k.result v c = shifted (k.result v c).value (k.result v c).flags.c := by
  cases k <;> rfl

theorem Shift.result_eq (k : Shift) (v : Byte) (c : Bool) : k.result v c =
    { value := op (k.value v.toNat c)
      flags := { z := decide (k.value v.toNat c = 0), n := false, h := false, c := k.carry v.toNat } } := by
  rw [result_eq_shifted, result_carry, shifted, byte_beq_zero, toNat_result, op, ← toNat_result, BitVec.ofNat_toNat,
    BitVec.setWidth_eq]

/-! ### Encodings (30_encoding.md R128, R133) -/

theorem encode_onReg (k : Shift) (r : Reg8) : encode (k.onReg r) = [0xCB, op (8 * k.number + regNumber r)] := by
  cases k <;> exact congrArg withCb (octal_low_code 0 _ r)

theorem encode_onHl (k : Shift) : encode k.onHl = [0xCB, op (8 * k.number + 6)] := by
  cases k <;> rfl

/-- A second byte of the bit operations on (HL). -/
theorem octal_low_hl (x : BitVec 2) (n : BitVec 3) : octal x n 6 = op (64 * x.toNat + 6 + 8 * n.toNat) := by
  rw [octal_eq_op, Nat.add_right_comm]
  rfl

theorem encode_bitR (n : BitVec 3) (r : Reg8) : encode (.bitR n r) = [0xCB, op (0x40 + 8 * n.toNat + regNumber r)] :=
  congrArg withCb (octal_low_code 1 n r)

theorem encode_bitHl (n : BitVec 3) : encode (.bitHl n) = [0xCB, op (0x46 + 8 * n.toNat)] :=
  congrArg withCb (octal_low_hl 1 n)

theorem encode_resR (n : BitVec 3) (r : Reg8) : encode (.resR n r) = [0xCB, op (0x80 + 8 * n.toNat + regNumber r)] :=
  congrArg withCb (octal_low_code 2 n r)

theorem encode_resHl (n : BitVec 3) : encode (.resHl n) = [0xCB, op (0x86 + 8 * n.toNat)] :=
  congrArg withCb (octal_low_hl 2 n)

theorem encode_setR (n : BitVec 3) (r : Reg8) : encode (.setR n r) = [0xCB, op (0xC0 + 8 * n.toNat + regNumber r)] :=
  congrArg withCb (octal_low_code 3 n r)

theorem encode_setHl (n : BitVec 3) : encode (.setHl n) = [0xCB, op (0xC6 + 8 * n.toNat)] :=
  congrArg withCb (octal_low_hl 3 n)

/-! ### What each meaning finishes with -/

theorem exec_onReg (s : State) (k : Shift) (r : Reg8) :
    exec (k.onReg r) s = finish 8 (s.resultToReg r (k.result (s.cpu.get r) (cOf s.cpu.f))) := by
  rw [← State.reg_eq, ← flagC_eq]
  cases k <;> rfl

theorem exec_onHl (s : State) (k : Shift) :
    exec k.onHl s = finish 16 (s.resultToHl (k.result s.atHl (cOf s.cpu.f))) := by
  rw [← State.hlByte_eq, ← flagC_eq]
  cases k <;> rfl

/-- Each accumulator rotate takes value and carry from its operation; the flags are its own, Z clear (R300..R303). -/
theorem completes_of_rotateA {i : Instr} {bytes : List Byte} {s : State} {n : Nat} (k : Shift) (enc : encode i = bytes)
    (len : i.length = bytes.length) (run : exec i s = finish n (s.rotateA (k.result s.cpu.a s.flagC))) :
    Completes i bytes s n
      { s.cpu with
        a := op (k.value s.cpu.a.toNat (cOf s.cpu.f))
        f := flagByte false false false (k.carry s.cpu.a.toNat) } := by
  rw [Shift.result_eq, State.rotateA_eq, finish_reframe, flagC_eq] at run
  exact completes_of_exec enc len run

theorem bitTestFlags_eq (v : Byte) (n : BitVec 3) (c : Bool) :
    bitTestFlags v n c = { z := decide (bitAt v.toNat n.toNat = 0), n := false, h := true, c := c } := by
  have complement : (!bitOf v n.toNat) = decide (bitAt v.toNat n.toNat = 0) := by
    rw [bitOf_eq_bitAt, ← decide_not, decide_eq_decide, bitAt, Nat.mod_two_not_eq_one]
  rw [bitTestFlags, complement]

/-! ### The obligations -/

/-- Settles O23: each of the four finishes with A rotated as its CB namesake rotates it, and Z clear. -/
theorem accumulatorRotates : Obligations.AccumulatorRotates := fun _ =>
  ⟨completes_of_rotateA .rlc rfl rfl rfl, completes_of_rotateA .rrc rfl rfl rfl, completes_of_rotateA .rl rfl rfl rfl,
    completes_of_rotateA .rr rfl rfl rfl⟩

/-- Settles O24: each of the eight finishes with its result in the register. -/
theorem shiftsRegister : Obligations.ShiftsRegister := by
  intro s k r
  have run := exec_onReg s k r
  rw [Shift.result_eq] at run
  exact completes_of_resultToReg (encode_onReg k r) (by cases k <;> rfl) run

/-- Settles O25: each of the eight finishes with one write of its result to (HL). -/
theorem shiftsMemoryByte : Obligations.ShiftsMemoryByte := by
  intro s k
  have run := exec_onHl s k
  rw [Shift.result_eq] at run
  exact completesStoring_of_resultToHl (encode_onHl k) (by cases k <;> rfl) run

/-- Settles O26: both forms finish with F alone, of the tested bit and the carry as it was. -/
theorem testsBit : Obligations.TestsBit := by
  intro s n
  refine ⟨fun r => ?reg, ?hl⟩
  case reg =>
    have run : exec (.bitR n r) s = finish 8 (s.setFlags (bitTestFlags (s.reg r) n s.flagC)) := rfl
    rw [bitTestFlags_eq, State.reg_eq, flagC_eq] at run
    exact completes_of_setFlags (encode_bitR n r) rfl run
  case hl =>
    have run : exec (.bitHl n) s = finish 12 (s.setFlags (bitTestFlags s.hlByte n s.flagC)) := rfl
    rw [bitTestFlags_eq, State.hlByte_eq, flagC_eq] at run
    exact completes_of_setFlags (encode_bitHl n) rfl run

/-- Settles O27: the register forms finish with one register update, the memory forms with one write to (HL), whatever the
bit was. -/
theorem clearsAndSetsBit : Obligations.ClearsAndSetsBit := by
  intro s n
  refine ⟨fun r => ?resR, ?resHl, fun r => ?setR, ?setHl⟩
  case resR =>
    exact completes_of_setReg (encode_resR n r) rfl (by rw [← clear_bit_eq, ← State.reg_eq]; rfl)
  case resHl =>
    exact completesStoring_of_memWrite (encode_resHl n) rfl
      (by rw [← clear_bit_eq, ← State.hlByte_eq, ← State.setHlByte_eq]; rfl)
  case setR =>
    exact completes_of_setReg (encode_setR n r) rfl (by rw [← set_bit_eq, ← State.reg_eq]; rfl)
  case setHl =>
    exact completesStoring_of_memWrite (encode_setHl n) rfl
      (by rw [← set_bit_eq, ← State.hlByte_eq, ← State.setHlByte_eq]; rfl)

end Sys2Proof.Machine
end

section
/-! The control transfers (45_control.md). A jump finishes with pc alone, a call with two writes, a return with a pop into
pc. A conditional form is a choice between that and nothing, so its cycles, its CPU and its writes are each a choice on the
same condition. -/

namespace Sys2Proof.Machine

/-! ### Encodings by the numbers of their operands (30_encoding.md R122, R126, R127) -/

theorem toNat_condCode (k : Cond) : k.code.toNat = condNumber k := by cases k <;> rfl

/-- An opcode byte with a condition in the field `cc`. -/
theorem condOp_code (x : BitVec 3) (k : Cond) (z : BitVec 3) :
    condOp x k.code z = op (32 * x.toNat + z.toNat + 8 * condNumber k) := by
  rw [Nat.add_right_comm, ← toNat_condCode, ← toNat_condOp, op, BitVec.ofNat_toNat, BitVec.setWidth_eq]

theorem encode_jpA16 (w : Word) : encode (.jpA16 w) = [0xC3, lowHalf w, highHalf w] := withWord_eq_halves 0xC3 w

theorem encode_callA16 (w : Word) : encode (.callA16 w) = [0xCD, lowHalf w, highHalf w] := withWord_eq_halves 0xCD w

theorem encode_jpCcA16 (k : Cond) (w : Word) :
    encode (.jpCcA16 k w) = [op (0xC2 + 8 * condNumber k), lowHalf w, highHalf w] := by
  rw [encode, withWord_eq_halves, condOp_code]
  rfl

theorem encode_callCcA16 (k : Cond) (w : Word) :
    encode (.callCcA16 k w) = [op (0xC4 + 8 * condNumber k), lowHalf w, highHalf w] := by
  rw [encode, withWord_eq_halves, condOp_code]
  rfl

theorem encode_jrCcE8 (k : Cond) (e : Byte) : encode (.jrCcE8 k e) = [op (0x20 + 8 * condNumber k), e] :=
  congrArg ([·, e]) (condOp_code 1 k 0)

theorem encode_retCc (k : Cond) : encode (.retCc k) = [op (0xC0 + 8 * condNumber k)] :=
  congrArg ([·]) (condOp_code 6 k 0)

theorem encode_rstT (t : BitVec 3) : encode (.rstT t) = [op (0xC7 + 8 * t.toNat)] := by
  rw [encode, octal_eq_op, Nat.add_right_comm]
  rfl

/-! ### Targets -/

/-- R343: the base is the address of the next instruction, where pc already is. -/
theorem State.jumpRelative_eq (s : State) (e : Byte) : s.jumpRelative e = s.setPc (offsetBy s.cpu.pc e) := by
  rw [State.jumpRelative, add_sext16_eq_offsetBy]

/-- R350: the vector of `RST t`. -/
theorem rstTarget_eq (t : BitVec 3) : t.zeroExtend 16 <<< 3 = BitVec.ofNat 16 (8 * t.toNat) := by
  revert t; decide

/-- R349: a return, and IME set with it. -/
theorem State.returnFromInterrupt_eq (s : State) :
    s.returnFromInterrupt = s.return.reframe { s.return.cpu with ime := true } s.out := rfl

/-! ### What each meaning finishes with -/

/-- A conditional form is its unconditional one where the condition holds, and nothing but its cycles where it fails. -/
theorem exec_of_cond {i : Instr} {s : State} {k : Cond} {x y : Host.Outcome State Fault Refusal}
    (run : exec i s = if s.cond k then x else y) :
    (holds s.cpu.f k = true ∧ exec i s = x) ∨ (holds s.cpu.f k = false ∧ exec i s = y) := by
  rw [cond_eq_holds] at run
  by_cases hk : holds s.cpu.f k = true
  · exact .inl ⟨hk, run.trans (if_pos hk)⟩
  · exact .inr ⟨eq_false_of_ne_true hk, run.trans (if_neg hk)⟩

section Control

variable {i : Instr} {bytes : List Byte} {s : State} {n m : Nat} {k : Cond} {w : Word} (enc : encode i = bytes)
  (len : i.length = bytes.length)
include enc len

theorem completes_of_setPc (run : exec i s = finish n (s.setPc w)) : Completes i bytes s n { s.cpu with pc := w } := by
  rw [State.setPc_eq, finish_reframe] at run
  exact completes_of_exec enc len run

theorem completesStoring_of_call (run : exec i s = finish n (s.call w)) :
    CompletesStoring i bytes s n { s.cpu with sp := s.cpu.sp - 2, pc := w }
      [(s.cpu.sp - 1, highHalf s.cpu.pc), (s.cpu.sp - 2, lowHalf s.cpu.pc)] := by
  rw [State.call_eq, finish_reframe] at run
  exact completesStoring_of_exec enc len run

theorem completes_of_return (run : exec i s = finish n s.return) :
    Completes i bytes s n
      { s.cpu with
        pc := fromHalves (s.memRead (BitVec.ofNat 16 (s.cpu.sp.toNat + 1))) (s.memRead s.cpu.sp)
        sp := BitVec.ofNat 16 (s.cpu.sp.toNat + 2) } := by
  rw [State.return_eq, finish_reframe] at run
  exact completes_of_exec enc len run

theorem completes_of_cond_setPc (run : exec i s = if s.cond k then finish n (s.setPc w) else finish m s) :
    Completes i bytes s (if holds s.cpu.f k then n else m)
      { s.cpu with pc := if holds s.cpu.f k then w else s.cpu.pc } := by
  obtain ⟨hk, taken⟩ | ⟨hk, passed⟩ := exec_of_cond run <;> rw [hk]
  · exact completes_of_setPc enc len taken
  · exact completes_of_exec enc len passed

end Control

/-! ### The obligations -/

/-- Settles O28: each of the five finishes with its target in pc, the conditional ones only where the condition holds. -/
theorem jumps : Obligations.Jumps := by
  intro s
  refine ⟨fun w => ?jp, fun k w => ?jpCc, ?jpHl, fun e => ?jr, fun k e => ?jrCc⟩
  case jp => exact completes_of_setPc (encode_jpA16 w) rfl rfl
  case jpCc => exact completes_of_cond_setPc (encode_jpCcA16 k w) rfl rfl
  case jpHl => exact completes_of_setPc rfl rfl (by rw [← State.hl_eq]; rfl)
  case jr => exact completes_of_setPc rfl rfl (by rw [← State.jumpRelative_eq]; rfl)
  case jrCc => exact completes_of_cond_setPc (encode_jrCcE8 k e) rfl (by rw [← State.jumpRelative_eq]; rfl)

/-- Settles O29: the three finish with the two writes of a push and the target in pc; CALL where its condition fails, with
no write. -/
theorem callsPushReturnAddress : Obligations.CallsPushReturnAddress := by
  intro s
  refine ⟨fun w => ?call, fun k w => ?callCc, fun t => ?rst⟩
  case call => exact completesStoring_of_call (encode_callA16 w) rfl rfl
  case callCc =>
    obtain ⟨hk, taken⟩ | ⟨hk, passed⟩ := exec_of_cond (i := .callCcA16 k w) rfl <;> rw [hk]
    · exact completesStoring_of_call (encode_callCcA16 k w) rfl taken
    · exact completesStoring_of_exec (encode_callCcA16 k w) rfl passed
  case rst => exact completesStoring_of_call (encode_rstT t) rfl (by rw [← rstTarget_eq]; rfl)

/-- Settles O30: the three finish with a pop into pc, RETI with IME set as well; RET where its condition fails, with no
pop. -/
theorem returnsPopPc : Obligations.ReturnsPopPc := by
  intro s
  refine ⟨?ret, fun k => ?retCc, ?reti⟩
  case ret => exact completes_of_return rfl rfl rfl
  case retCc =>
    obtain ⟨hk, taken⟩ | ⟨hk, passed⟩ := exec_of_cond (i := .retCc k) rfl <;> rw [hk]
    · exact completes_of_return (encode_retCc k) rfl taken
    · exact completes_of_exec (encode_retCc k) rfl passed
  case reti =>
    have run : exec .reti s = finish 16 s.returnFromInterrupt := rfl
    rw [State.returnFromInterrupt_eq, State.return_eq, State.reframe_reframe, finish_reframe] at run
    exact completes_of_exec rfl rfl run

end Sys2Proof.Machine
end

section
/-! The CPU control instructions and the illegal first bytes (46_misc.md). Each control instruction finishes with its bits of
the CPU alone; each illegal byte raises the fault of 60_exceptions.md R420. -/

namespace Sys2Proof.Machine

/-- Settles O31: each of the five finishes with the CPU alone, NOP with the CPU as it was, and STOP whatever its second
byte. -/
theorem cpuControl : Obligations.CpuControl := by
  intro s
  refine ⟨?nop, ?halt, fun pad => ?stop, ?di, ?ei⟩
  case nop | halt | stop | di | ei => exact completes_of_exec rfl rfl rfl

/-- Settles O32: the eleven bytes of the list are `illegalBytes`, and each meaning raises the fault with its own byte. -/
theorem illegalBytesFault : Obligations.IllegalBytesFault := by
  intro s p hp
  have illegal : p.2 ∈ illegalBytes := List.mem_map_of_mem (f := Prod.snd) hp
  have raises : encode p.1 = [p.2] ∧ exec p.1 s = s.raiseIllegal p.2 := by
    fin_cases hp <;> exact ⟨rfl, rfl⟩
  obtain ⟨enc, run⟩ := raises
  exact ⟨enc, illegal, run⟩

end Sys2Proof.Machine
end

section
/-! Key events, and the invariant along any sequence of events (60_exceptions.md R460, R462; 70_reset_and_hazards.md R510). -/

namespace Sys2Proof.Machine

/-! ### Key events -/

theorem Key.bit_eq_idxOf (key : Key) :
    key.bit = [Key.right, .left, .up, .down, .a, .b, .select, .start].idxOf key := by cases key <;> decide

theorem Key.bit_lt (key : Key) : key.bit < 8 := by cases key <;> decide

/-- Setting bit `n` of a byte, by its number. -/
theorem or_bitMask_eq (v : Byte) {n : Nat} (hn : n < 8) : v ||| bitMask n = BitVec.ofNat 8 (withBit v.toNat n) :=
  set_bit_eq v (BitVec.ofNatLT n hn)

/-- Clearing bit `n` of a byte, by its number. -/
theorem and_not_bitMask_eq (v : Byte) {n : Nat} (hn : n < 8) :
    v &&& ~~~bitMask n = BitVec.ofNat 8 (withoutBit v.toNat n) :=
  clear_bit_eq v (BitVec.ofNatLT n hn)

theorem State.input_held {s : State} {key : Key} (held : bitOf s.joypad.keys key.bit = true) : s.input key true = s :=
  if_pos held

theorem State.input_press {s : State} {key : Key} (up : ¬bitOf s.joypad.keys key.bit = true) : s.input key true =
    { s with
      joypad := { s.joypad with keys := s.joypad.keys ||| bitMask key.bit }
      irq := { s.irq with iflag := s.irq.iflag ||| bitMask 4 }
      cpu := { s.cpu with stopped := false } } :=
  if_neg up

theorem State.input_release (s : State) (key : Key) : s.input key false =
    { s with joypad := { s.joypad with keys := s.joypad.keys &&& ~~~bitMask key.bit } } := rfl

/-- Settles O58: a press by whether the key's bit is set, and the bits of `keys` and IF as numbers. -/
theorem inputEvents : Obligations.InputEvents := by
  intro s key
  dsimp only
  rw [← Key.bit_eq_idxOf]
  have bit := bitOf_eq_bitAt s.joypad.keys key.bit
  refine ⟨fun up => ?_, fun held => State.input_held (bit.trans (decide_eq_true held)), ?_⟩
  · have notHeld : ¬bitOf s.joypad.keys key.bit = true := by rw [bit, up]; decide
    rw [State.input_press notHeld, or_bitMask_eq _ key.bit_lt, or_bitMask_eq _ (by decide)]
  · rw [State.input_release, and_not_bitMask_eq _ key.bit_lt]

/-! ### The invariant along events -/

/-- A key event changes `keys`, IF and `stopped`, and it never sets `stopped`. -/
theorem State.input_inv {s : State} (h : s.Inv) (key : Key) (pressed : Bool) : (s.input key pressed).Inv := by
  obtain ⟨stored, flags, lcd, aligned, divCount, timaCount, bankLo, power⟩ := h
  cases pressed with
  | false => exact ⟨stored.congr rfl rfl rfl, flags, lcd, aligned, divCount, timaCount, bankLo, power⟩
  | true =>
    by_cases held : bitOf s.joypad.keys key.bit = true
    · rw [State.input_held held]
      exact ⟨stored, flags, lcd, aligned, divCount, timaCount, bankLo, power⟩
    · rw [State.input_press held]
      exact ⟨stored.congr rfl rfl rfl, flags, lcd, aligned, divCount, timaCount, bankLo, Bool.and_false _⟩

/-- A reset is a load of the cartridge and the RAM contents there are. -/
theorem State.hostReset_inv {s : State} (h : s.Stored) : s.hostReset.Inv :=
  loadedMachineMeetsInvariant s.cart s.ram h.rom ⟨h.vram, h.cartRam, h.wram, h.oam, h.hram⟩

theorem State.Leads.inv {s t : State} {e : Event} (lead : s.Leads e t) (h : s.Inv) : t.Inv := by
  cases e with
  | step => exact step_inv h lead
  | input key pressed =>
    rw [show t = s.input key pressed from lead]
    exact State.input_inv h key pressed
  | writeMemory addr value =>
    rw [show t = s.writeMemory addr value from lead]
    exact State.memWrite_inv h _ _
  | reset =>
    rw [show t = s.hostReset from lead]
    exact State.hostReset_inv h.stored

/-- Settles O45: by induction over the events, each of which keeps the invariant. -/
theorem reachedStatesMeetInvariant : Obligations.ReachedStatesMeetInvariant := by
  intro s t inv reaches
  induction reaches with
  | here => exact inv
  | after _ _ event ih => exact event.inv ih

end Sys2Proof.Machine
end

section
/-! The assigned registers of the I/O block and IE (20_memory.md R88; 60_exceptions.md R432, R433, R447, R456, R461, R465). -/

namespace Sys2Proof.Machine

/-! ### The address of a register -/

/-- The address of a register as a word. -/
def IoReg.word (r : IoReg) : Word := BitVec.ofNat 16 r.address

theorem IoReg.region_word (r : IoReg) : regionOf r.word = .io := by cases r <;> decide

theorem IoReg.ioRegOf_word (r : IoReg) : ioRegOf r.word = some r := by cases r <;> decide

theorem State.memRead_word (s : State) (r : IoReg) : s.memRead r.word = s.ioRead r.word r :=
  State.memRead_io r.region_word r.ioRegOf_word s

theorem State.memWrite_word (s : State) (r : IoReg) (v : Byte) : s.memWrite r.word v = s.ioWrite r.word v r :=
  State.memWrite_io r.region_word r.ioRegOf_word s v

theorem State.memRead_ie (s : State) : s.memRead 0xFFFF = s.irq.ie :=
  State.memRead_eq (regionOf_eq (r := .ie) (by decide) (by decide)) s

theorem State.memWrite_ie (s : State) (v : Byte) : s.memWrite 0xFFFF v = { s with irq := { s.irq with ie := v } } :=
  State.memWrite_eq (regionOf_eq (r := .ie) (by decide) (by decide)) s v

/-! ### Registers that store the byte -/

/-- The registers of one byte that a write stores and a read returns. -/
def IoReg.plain : List IoReg :=
  [.sb, .sc, .tima, .tma, .tac, .iflag, .lcdc, .scy, .scx, .lyc, .bgp, .obp0, .obp1, .wy, .wx]

theorem State.ioRead_ioWrite_plain (s : State) {r : IoReg} (plain : r ∈ IoReg.plain) (a : Word) (v : Byte) :
    (s.ioWrite a v r).ioRead a r = v := by
  cases r
  case p1 | div | apu | stat | ly | dma => exact absurd plain (by decide)
  all_goals rfl

/-! ### STAT and P1 -/

/-- R447: STAT[7:3] from the byte, STAT[2:0] kept. -/
theorem stat_write_eq (v old : Byte) :
    (v &&& 0xF8) ||| (old &&& 0x07) = BitVec.ofNat 8 (v.toNat / 8 * 8 + old.toNat % 8) := by
  have high : ∀ x : Byte, (x &&& 0xF8).toNat = x.toNat / 8 * 8 := by decide
  have low : ∀ x : Byte, (x &&& 0x07).toNat = x.toNat % 8 := by decide
  have disjoint := Nat.shiftLeft_add_eq_or_of_lt (i := 3) (Nat.mod_lt old.toNat (by decide : 0 < 8)) (v.toNat / 8)
  rw [Nat.shiftLeft_eq] at disjoint
  apply BitVec.eq_of_toNat_eq
  have := v.isLt
  rw [BitVec.toNat_or, high, low, ← disjoint, BitVec.toNat_ofNat]
  omega

theorem select_write_eq (v : Byte) : v.extractLsb' 4 2 = BitVec.ofNat 2 (v.toNat / 16 % 4) := by
  apply BitVec.eq_of_toNat_eq
  simp [BitVec.extractLsb'_toNat, Nat.shiftRight_eq_div_pow]

/-- R461: P1 as read: 0xC0, the select bits, and the complement of the low nibbles of the selected keys. -/
theorem Joypad.p1_eq (j : Joypad) : j.p1 = BitVec.ofNat 8 (0xC0 + 16 * j.select.toNat +
    (15 - ((if j.select.toNat % 2 = 0 then j.keys.toNat % 16 else 0) |||
      (if j.select.toNat / 2 = 0 then j.keys.toNat / 16 else 0)))) := by
  have directions : ∀ (sel : BitVec 2) (keys : Byte), (if sel.getLsbD 0 then 0#4 else keys.extractLsb' 0 4).toNat =
      if sel.toNat % 2 = 0 then keys.toNat % 16 else 0 := by decide
  have actions : ∀ (sel : BitVec 2) (keys : Byte), (if sel.getLsbD 1 then 0#4 else keys.extractLsb' 4 4).toNat =
      if sel.toNat / 2 = 0 then keys.toNat / 16 else 0 := by decide
  apply BitVec.eq_of_toNat_eq
  rw [Joypad.p1, toNat_append_bits, toNat_append_bits, BitVec.toNat_not, BitVec.toNat_or, directions, actions,
    BitVec.toNat_ofNat, BitVec.toNat_ofNat]
  have := j.select.isLt
  omega

/-! ### The APU's registers -/

section Apu

variable {s : State} {a : Word} (h : (0xFF10 ≤ a.toNat ∧ a.toNat ≤ 0xFF14) ∨ (0xFF16 ≤ a.toNat ∧ a.toNat ≤ 0xFF1E) ∨
  (0xFF20 ≤ a.toNat ∧ a.toNat ≤ 0xFF26) ∨ (0xFF30 ≤ a.toNat ∧ a.toNat ≤ 0xFF3F))

include h

theorem regionOf_apu : regionOf a = .io :=
  regionOf_eq (by simp only [Region.low]; omega) (by simp only [Region.high]; omega)

theorem State.memWrite_apu (v : Byte) : s.memWrite a v =
    { s with apu := { regs := s.apu.regs.write a.toNat v, internal := Config.apuWrite a v s.apu.internal } } :=
  State.memWrite_io (regionOf_apu h) (ioRegOf_apu h) s v

theorem State.memRead_apu : s.memRead a = s.apu.regs.read a.toNat :=
  State.memRead_io (regionOf_apu h) (ioRegOf_apu h) s

end Apu

/-- Settles O53: the write of each register by its address; the sixteen that store the byte are the plain ones and IE. -/
theorem deviceRegisterWrites : Obligations.DeviceRegisterWrites := by
  intro s v
  refine ⟨⟨s.memWrite_word .div v, ?stat, s.memWrite_word .ly v, ?p1⟩,
    ⟨s.memWrite_word .tima v, s.memWrite_word .tma v, s.memWrite_word .tac v, s.memWrite_word .sb v,
      s.memWrite_word .sc v, s.memWrite_word .iflag v, s.memWrite_ie v⟩,
    ⟨s.memWrite_word .lcdc v, s.memWrite_word .scy v, s.memWrite_word .scx v, s.memWrite_word .lyc v,
      s.memWrite_word .bgp v, s.memWrite_word .obp0 v, s.memWrite_word .obp1 v, s.memWrite_word .wy v,
      s.memWrite_word .wx v⟩,
    fun a listed => ?readsBack,
    ⟨s.memRead_word .div, s.memRead_word .stat, s.memRead_word .ly, (s.memRead_word .p1).trans s.joypad.p1_eq⟩,
    fun stored a apu => ?apu⟩
  case stat =>
    rw [← stat_write_eq]
    exact s.memWrite_word .stat v
  case p1 =>
    rw [← select_write_eq]
    exact s.memWrite_word .p1 v
  case readsBack =>
    have registers : a ∈ IoReg.plain.map IoReg.word ++ [0xFFFF] := listed
    obtain ⟨r, plain, rfl⟩ | rfl := (List.mem_append.mp registers).imp List.mem_map.mp List.mem_singleton.mp
    · rw [State.memWrite_word, State.memRead_word, State.ioRead_ioWrite_plain s plain]
    · rw [State.memWrite_ie, State.memRead_ie]
  case apu =>
    have write : s.memWrite a v = _ := State.memWrite_apu apu v
    refine ⟨?_, by rw [write]⟩
    rw [State.memRead_apu apu, write]
    exact Memory.read_write_same (Memory.wfFrom_of_within stored.apu) _ v

end Sys2Proof.Machine
end

section
/-! The timer (60_exceptions.md R431): the tick, which counts increments by a division, is the two loops of the rule. -/

namespace Sys2Proof.Machine

/-! ### The loops of the rule -/

/-- With fuel for every turn, the `DIV` loop leaves the remainder and has incremented DIV once per 256. -/
theorem divLoop_eq {fuel count : Nat} (h : count ≤ fuel) (div : Byte) :
    divLoop fuel count div = (count % 256, div + BitVec.ofNat 8 (count / 256)) := by
  induction fuel generalizing count div with
  | zero =>
    obtain rfl : count = 0 := by omega
    simp [divLoop]
  | succ fuel ih =>
    unfold divLoop
    split
    · have turns : count / 256 = 1 + (count - 256) / 256 := by omega
      rw [ih (by omega), ← Nat.mod_eq_sub_mod ‹_›, turns, BitVec.ofNat_add, BitVec.add_assoc]
      rfl
    · rw [Nat.mod_eq_of_lt (by omega), Nat.div_eq_of_lt (by omega)]
      exact congrArg _ (BitVec.add_zero div).symm

theorem periodOf_eq : ∀ tac : Byte, periodOf tac = timerPeriod tac := by decide

theorem State.timaIncrement_wraps {s : State} (h : s.timer.tima = 0xFF) :
    s.timaIncrement = ({ s with timer := { s.timer with tima := s.timer.tma } } : State).request 2 := if_pos h

theorem State.timaIncrement_counts {s : State} (h : s.timer.tima ≠ 0xFF) :
    s.timaIncrement = { s with timer := { s.timer with tima := s.timer.tima + 1 } } := if_neg h

/-- With fuel for every turn, the `TIMA` loop leaves the remainder of the count and increments TIMA once per whole period.
`iflag` is IF before the turns already taken, `wrapped` whether one of those overflowed. -/
theorem timaLoop_eq {period : Nat} (hp : 0 < period) {fuel count : Nat} (h : count ≤ fuel) (s : State) {iflag : Byte}
    {wrapped : Bool} (before : s.irq.iflag = if wrapped then iflag ||| 0x04 else iflag) :
    let c := timaLoop period s.timer.tma fuel count s.timer.tima wrapped
    let t := State.timaIncrements (count / period) s
    (count % period, t.timer.tima) = (c.1, c.2.1) ∧ t.irq.iflag = if c.2.2 then iflag ||| 0x04 else iflag := by
  induction fuel generalizing count s wrapped with
  | zero =>
    obtain rfl : count = 0 := by omega
    rw [Nat.zero_mod, Nat.zero_div]
    exact ⟨rfl, before⟩
  | succ fuel ih =>
    dsimp only
    unfold timaLoop
    split
    case isTrue turn =>
      rw [Nat.mod_eq_sub_mod turn, Nat.div_eq_sub_div hp turn, State.timaIncrements]
      split
      case isTrue last =>
        rw [State.timaIncrement_wraps last]
        refine ih (by omega) _ (wrapped := true) ?_
        show s.irq.iflag ||| 0x04 = iflag ||| 0x04
        rw [before]
        split
        · rw [BitVec.or_assoc, BitVec.or_self]
        · rfl
      case isFalse notLast =>
        rw [State.timaIncrement_counts notLast]
        exact ih (by omega) _ before
    case isFalse done =>
      rw [Nat.mod_eq_of_lt (by omega), Nat.div_eq_of_lt (by omega)]
      exact ⟨rfl, before⟩

/-! ### The tick -/

/-- `s` with other values of DIV and of the two hidden counters, which no increment of TIMA looks at. -/
def State.withCounters (s : State) (div : Byte) (divCount timaCount : Nat) : State :=
  { s with timer := { s.timer with div := div, divCount := divCount, timaCount := timaCount } }

theorem State.divTick_eq (n : Nat) (s : State) : State.divTick n s = s.withCounters
    (s.timer.div + BitVec.ofNat 8 ((s.timer.divCount + n) / 256)) ((s.timer.divCount + n) % 256) s.timer.timaCount := rfl

theorem State.timaTick_running {s : State} (h : s.timer.tac.getLsbD 2 = true) (n : Nat) :
    State.timaTick n s = State.timaIncrements ((s.timer.timaCount + n) / timerPeriod s.timer.tac)
      (s.withCounters s.timer.div s.timer.divCount ((s.timer.timaCount + n) % timerPeriod s.timer.tac)) := if_pos h

theorem State.timaTick_stopped {s : State} (h : ¬s.timer.tac.getLsbD 2 = true) (n : Nat) : State.timaTick n s = s :=
  if_neg h

theorem timerPeriod_pos (tac : Byte) : 0 < timerPeriod tac :=
  Nat.lt_of_lt_of_le (by decide) (timerPeriod_bounds tac).1

/-- TIMA's half of a tick leaves everything of the timer but TIMA and its counter. -/
theorem State.timaTick_timer (n : Nat) (s : State) : (State.timaTick n s).timer =
    { s.timer with timaCount := (State.timaTick n s).timer.timaCount, tima := (State.timaTick n s).timer.tima } := by
  by_cases run : s.timer.tac.getLsbD 2 = true
  · rw [State.timaTick_running run, State.timaIncrements_timer]
    rfl
  · rw [State.timaTick_stopped run]

/-- A running timer's tick is the `TIMA` loop. -/
theorem State.timaTick_loop {s : State} (run : s.timer.tac.getLsbD 2 = true) (n : Nat) :
    let t := State.timaTick n s
    let count := s.timer.timaCount + n
    let c := timaLoop (periodOf s.timer.tac) s.timer.tma count count s.timer.tima false
    (t.timer.timaCount, t.timer.tima) = (c.1, c.2.1) ∧
      t.irq.iflag = (if c.2.2 then s.irq.iflag ||| 0x04 else s.irq.iflag) := by
  dsimp only
  rw [periodOf_eq, State.timaTick_running run, State.timaIncrements_timer]
  exact timaLoop_eq (timerPeriod_pos _) (Nat.le_refl _) _ (wrapped := false) rfl

/-! ### Ticks add up -/

theorem State.timaIncrement_withCounters (s : State) (div : Byte) (divCount timaCount : Nat) :
    (s.withCounters div divCount timaCount).timaIncrement = s.timaIncrement.withCounters div divCount timaCount := by
  by_cases last : s.timer.tima = 0xFF
  · rw [State.timaIncrement_wraps last]
    exact State.timaIncrement_wraps last
  · rw [State.timaIncrement_counts last]
    exact State.timaIncrement_counts last

theorem State.timaIncrements_withCounters (k : Nat) (s : State) (div : Byte) (divCount timaCount : Nat) :
    State.timaIncrements k (s.withCounters div divCount timaCount) =
      (State.timaIncrements k s).withCounters div divCount timaCount := by
  induction k generalizing s with
  | zero => rfl
  | succ k ih => rw [State.timaIncrements, State.timaIncrement_withCounters, ih, State.timaIncrements]

/-- Counting `m` after the whole multiples of `p` in `x` are taken out counts the same multiples. -/
theorem div_add_mod_add_div {p : Nat} (hp : 0 < p) (x m : Nat) : x / p + (x % p + m) / p = (x + m) / p := by
  have whole : x + m = x % p + m + p * (x / p) := by
    have := Nat.mod_add_div x p
    omega
  rw [whole, Nat.add_mul_div_left _ _ hp, Nat.add_comm]

theorem State.divTick_add (n m : Nat) (s : State) :
    State.divTick m (State.divTick n s) = State.divTick (n + m) s := by
  simp only [State.divTick, BitVec.add_assoc, ← BitVec.ofNat_add, div_add_mod_add_div (show 0 < 256 by decide),
    Nat.mod_add_mod, Nat.add_assoc]

theorem State.timaTick_add (n m : Nat) (s : State) :
    State.timaTick m (State.timaTick n s) = State.timaTick (n + m) s := by
  by_cases run : s.timer.tac.getLsbD 2 = true
  · let p := timerPeriod s.timer.tac
    let x := s.timer.timaCount + n
    let t := State.timaIncrements (x / p) (s.withCounters s.timer.div s.timer.divCount (x % p))
    have timer : t.timer = { s.timer with timaCount := x % p, tima := t.timer.tima } := State.timaIncrements_timer _ _
    calc State.timaTick m (State.timaTick n s)
      _ = State.timaTick m t := by rw [State.timaTick_running run]
      _ = State.timaIncrements ((x % p + m) / p) (t.withCounters s.timer.div s.timer.divCount ((x % p + m) % p)) := by
        rw [State.timaTick_running (by rw [timer]; exact run), timer]
      _ = State.timaIncrements (x / p + (x % p + m) / p)
          (s.withCounters s.timer.div s.timer.divCount ((x % p + m) % p)) := by
        rw [← State.timaIncrements_withCounters, State.timaIncrements_add]
        rfl
      _ = State.timaTick (n + m) s := by
        rw [div_add_mod_add_div (timerPeriod_pos _), Nat.mod_add_mod, State.timaTick_running run, ← Nat.add_assoc]
  · rw [State.timaTick_stopped run, State.timaTick_stopped run, State.timaTick_stopped run]

/-- The two halves of the timer do not look at each other. -/
theorem State.divTick_timaTick (n m : Nat) (s : State) :
    State.divTick m (State.timaTick n s) = State.timaTick n (State.divTick m s) := by
  by_cases run : s.timer.tac.getLsbD 2 = true
  · rw [State.timaTick_running (s := State.divTick m s) run, State.timaTick_running run, State.divTick_eq,
      State.timaIncrements_timer, ← State.timaIncrements_withCounters]
    rfl
  · rw [State.timaTick_stopped run, State.timaTick_stopped (s := State.divTick m s) run]

/-- A tick of `n` and one of `m` are a tick of `n + m` (60_exceptions.md R431). -/
theorem State.timerTick_add (n m : Nat) (s : State) :
    State.timerTick m (State.timerTick n s) = State.timerTick (n + m) s := by
  rw [State.timerTick, State.timerTick, State.divTick_timaTick, State.timaTick_add, State.divTick_add, State.timerTick]

/-- Settles O54: DIV by `divLoop_eq`, TIMA by `timaLoop_eq`, the frame by the shape of a tick. -/
theorem timerTickIsTheRulesLoop : Obligations.TimerTickIsTheRulesLoop := by
  intro n s
  have timer : (State.timerTick n s).timer =
    { (State.divTick n s).timer with
      timaCount := (State.timerTick n s).timer.timaCount, tima := (State.timerTick n s).timer.tima } :=
    State.timaTick_timer n _
  dsimp only
  refine ⟨?div, by rw [timer]; rfl, by rw [timer]; rfl, ?tima, State.timerTick_shape n s,
    fun m => State.timerTick_add n m s⟩
  case div =>
    rw [divLoop_eq (Nat.le_refl _), timer]
    rfl
  case tima =>
    have enabled : s.timer.tac.getLsbD 2 = decide (s.timer.tac.toNat / 4 % 2 = 1) := bitOf_eq_bitAt s.timer.tac 2
    split
    case isTrue on => exact State.timaTick_loop (s := State.divTick n s) (enabled.trans (decide_eq_true on)) n
    case isFalse off =>
      have stopped : State.timerTick n s = State.divTick n s :=
        State.timaTick_stopped (s := State.divTick n s) (fun on => off (of_decide_eq_true (enabled.symm.trans on))) n
      rw [stopped]
      exact ⟨rfl, rfl, rfl⟩

end Sys2Proof.Machine
end

section
/-! The LCD controller, clock by clock (60_exceptions.md R443..R446, R449, R450): the six kinds of a clock, what each requests,
and where a line delivers its scanline. -/

namespace Sys2Proof.Machine

/-! ### The kinds of a clock -/

/-- `s` one position further in its line. -/
def State.nextPosition (s : State) : State := { s with lcd := { s.lcd with lineCount := s.lcd.lineCount + 1 } }

/-- `s` at the start of the next line. -/
def State.nextLine (s : State) : State :=
  { s with lcd := { s.lcd with lineCount := 0, ly := BitVec.ofNat 8 ((s.lcd.ly.toNat + 1) % 154) } }

theorem State.toNat_nextLine_ly (s : State) : s.nextLine.lcd.ly.toNat = (s.lcd.ly.toNat + 1) % 154 := by
  have e : s.nextLine.lcd.ly.toNat = (s.lcd.ly.toNat + 1) % 154 % 256 := BitVec.toNat_ofNat _ _
  omega

section Clock

variable {s : State}

theorem State.lcdTick_vblank (last : s.lcd.lineCount = 455) (line : (s.lcd.ly.toNat + 1) % 154 = 144) :
    s.lcdTick = (((s.nextLine.setMode 1).request 0).statRequest 4).lineCompare :=
  (if_pos (congrArg Nat.succ last)).trans (if_pos (s.toNat_nextLine_ly.trans line))

theorem State.lcdTick_visibleLine (last : s.lcd.lineCount = 455) (line : (s.lcd.ly.toNat + 1) % 154 < 144) :
    s.lcdTick = (s.nextLine.setMode 2).lineCompare := by
  have ly := s.toNat_nextLine_ly
  exact (if_pos (congrArg Nat.succ last)).trans
    ((if_neg (show s.nextLine.lcd.ly.toNat ≠ 144 by omega)).trans (if_pos (ly.trans_lt line)))

theorem State.lcdTick_vblankLine (last : s.lcd.lineCount = 455) (line : 144 < (s.lcd.ly.toNat + 1) % 154) :
    s.lcdTick = s.nextLine := by
  have ly := s.toNat_nextLine_ly
  exact (if_pos (congrArg Nat.succ last)).trans
    ((if_neg (show s.nextLine.lcd.ly.toNat ≠ 144 by omega)).trans
      (if_neg (show ¬s.nextLine.lcd.ly.toNat < 144 by omega)))

theorem State.lcdTick_draw (visible : s.lcd.ly.toNat < 144) (position : s.lcd.lineCount = 76) :
    s.lcdTick = s.nextPosition.setMode 3 := by
  have next : s.nextPosition.lcd.lineCount = 77 := congrArg Nat.succ position
  exact (if_neg (by omega)).trans ((if_pos visible).trans (if_pos next))

theorem State.lcdTick_hblank (visible : s.lcd.ly.toNat < 144) (position : s.lcd.lineCount = 245) :
    s.lcdTick = ((s.nextPosition.setMode 0).deliverScanline).statRequest 3 := by
  have next : s.nextPosition.lcd.lineCount = 246 := congrArg Nat.succ position
  exact (if_neg (by omega)).trans ((if_pos visible).trans
    ((if_neg (show s.nextPosition.lcd.lineCount ≠ 77 by omega)).trans (if_pos next)))

theorem State.lcdTick_between (inside : s.lcd.lineCount ≠ 455)
    (quiet : 144 ≤ s.lcd.ly.toNat ∨ (s.lcd.lineCount ≠ 76 ∧ s.lcd.lineCount ≠ 245)) : s.lcdTick = s.nextPosition := by
  have next : s.nextPosition.lcd.lineCount = s.lcd.lineCount + 1 := rfl
  refine (if_neg (by omega)).trans ?_
  by_cases visible : s.lcd.ly.toNat < 144
  · exact (if_pos visible).trans ((if_neg (show s.nextPosition.lcd.lineCount ≠ 77 by omega)).trans
      (if_neg (show s.nextPosition.lcd.lineCount ≠ 246 by omega)))
  · exact if_neg visible

end Clock

/-! ### Requests and STAT of the operations of a clock -/

theorem bitAt_of_div_four {x y n : Nat} (h : x / 4 = y / 4) (hn : 2 ≤ n) : bitAt x n = bitAt y n := by
  obtain ⟨k, rfl⟩ := Nat.exists_eq_add_of_le hn
  rw [bitAt, bitAt, Nat.pow_add, ← Nat.div_div_eq_div_mul, ← Nat.div_div_eq_div_mul, h]

theorem State.statRequest_iflag (s : State) (n : Nat) :
    (s.statRequest n).irq.iflag = s.irq.iflag ||| if decide (bitAt s.lcd.stat.toNat n = 1) then 2 else 0 := by
  rw [← bitOf_eq_bitAt]
  unfold State.statRequest
  split
  · rfl
  · exact BitVec.or_zero.symm

@[simp] theorem State.statRequest_lcd (s : State) (n : Nat) : (s.statRequest n).lcd = s.lcd := by
  unfold State.statRequest
  split <;> rfl

@[simp] theorem State.statRequest_out (s : State) (n : Nat) : (s.statRequest n).out = s.out := by
  unfold State.statRequest
  split <;> rfl

@[simp] theorem State.lineCompare_out (s : State) : s.lineCompare.out = s.out := by
  unfold State.lineCompare
  split
  · dsimp only
    split <;> rfl
  · rfl

theorem mode_div_four : ∀ (stat : Byte) (m : BitVec 2), ((stat &&& 0xFC) ||| m.zeroExtend 8).toNat / 4 = stat.toNat / 4 := by
  decide

/-- R443: a change of mode keeps STAT[7:2]. -/
theorem State.setMode_stat (s : State) (m : BitVec 2) : (s.setMode m).lcd.stat.toNat / 4 = s.lcd.stat.toNat / 4 :=
  mode_div_four _ _

/-- R446: a line compare requests LCD-STAT where the lines are equal and STAT[6] enables it. -/
theorem State.lineCompare_iflag (s : State) : s.lineCompare.irq.iflag = s.irq.iflag |||
    if decide (s.lcd.ly.toNat = s.lcd.lyc.toNat) && decide (bitAt s.lcd.stat.toNat 6 = 1) then 2 else 0 := by
  rw [← bitOf_eq_bitAt]
  unfold State.lineCompare
  by_cases equal : s.lcd.ly = s.lcd.lyc
  · rw [if_pos equal, decide_eq_true (congrArg BitVec.toNat equal), Bool.true_and]
    dsimp only
    split
    · rfl
    · exact BitVec.or_zero.symm
  · rw [if_neg equal, decide_eq_false (equal ∘ BitVec.eq_of_toNat_eq)]
    exact BitVec.or_zero.symm

theorem compareFlag_set : ∀ stat : Byte, bitAt (stat ||| 0x04).toNat 2 = 1 ∧ (stat ||| 0x04).toNat / 8 = stat.toNat / 8 := by
  decide

theorem compareFlag_clear : ∀ stat : Byte,
    bitAt (stat &&& ~~~(0x04 : Byte)).toNat 2 = 0 ∧ (stat &&& ~~~(0x04 : Byte)).toNat / 8 = stat.toNat / 8 := by
  decide

/-- R446: a line compare writes its result to STAT[2] and keeps STAT[7:3]. -/
theorem State.lineCompare_stat (s : State) :
    bitAt s.lineCompare.lcd.stat.toNat 2 = (decide (s.lcd.ly.toNat = s.lcd.lyc.toNat)).toNat ∧
      s.lineCompare.lcd.stat.toNat / 8 = s.lcd.stat.toNat / 8 := by
  unfold State.lineCompare
  by_cases equal : s.lcd.ly = s.lcd.lyc
  · rw [if_pos equal, decide_eq_true (congrArg BitVec.toNat equal)]
    dsimp only
    split <;> exact compareFlag_set _
  · rw [if_neg equal, decide_eq_false (equal ∘ BitVec.eq_of_toNat_eq)]
    exact compareFlag_clear _

/-! ### What a clock requests -/

/-- One clock from `s` to `t` that starts V-Blank, starts H-Blank or compares lines, as the flags say: its requests and its
effect on STAT[7:2] (60_exceptions.md R445, R446). -/
structure ClockEffect (s t : State) (vblank hblank compares equal : Bool) : Prop where
  iflag : t.irq.iflag = s.irq.iflag ||| (if vblank then 1 else 0) |||
    (if (vblank && decide (bitAt s.lcd.stat.toNat 4 = 1)) || (hblank && decide (bitAt s.lcd.stat.toNat 3 = 1)) ||
        (compares && equal && decide (bitAt s.lcd.stat.toNat 6 = 1)) then 2 else 0)
  compared : bitAt t.lcd.stat.toNat 2 = if compares then equal.toNat else bitAt s.lcd.stat.toNat 2
  enables : t.lcd.stat.toNat / 8 = s.lcd.stat.toNat / 8

/-- Two requests of LCD-STAT are one. -/
theorem statBit_or (p q : Bool) : ((if p then 2 else 0) ||| (if q then 2 else 0) : Byte) = if p || q then 2 else 0 := by
  cases p <;> cases q <;> rfl

theorem div_eight_of_div_four {x y : Nat} (h : x / 4 = y / 4) : x / 8 = y / 8 := by omega

section Effect

variable {s : State}

/-- A clock that only moves and changes the mode. -/
theorem ClockEffect.quiet {t : State} (equal : Bool) (iflag : t.irq.iflag = s.irq.iflag)
    (stat : t.lcd.stat.toNat / 4 = s.lcd.stat.toNat / 4) : ClockEffect s t false false false equal :=
  ⟨by simpa using iflag, bitAt_of_div_four stat (Nat.le_refl 2), div_eight_of_div_four stat⟩

theorem State.lcdTick_vblank_effect (last : s.lcd.lineCount = 455) (line : (s.lcd.ly.toNat + 1) % 154 = 144) :
    ClockEffect s s.lcdTick true false true (decide ((s.lcd.ly.toNat + 1) % 154 = s.lcd.lyc.toNat)) := by
  have stat : (s.nextLine.setMode 1).lcd.stat.toNat / 4 = s.lcd.stat.toNat / 4 := s.nextLine.setMode_stat 1
  have compare := State.lineCompare_stat (((s.nextLine.setMode 1).request 0).statRequest 4)
  rw [State.lcdTick_vblank last line, ← s.toNat_nextLine_ly]
  rw [State.statRequest_lcd] at compare
  refine ⟨?_, compare.1, compare.2.trans (div_eight_of_div_four stat)⟩
  rw [State.lineCompare_iflag, State.statRequest_iflag, State.statRequest_lcd, State.request_lcd,
    bitAt_of_div_four stat (by decide), bitAt_of_div_four stat (by decide), BitVec.or_assoc, statBit_or]
  simp [nextLine, bitMask]

theorem State.lcdTick_visibleLine_effect (last : s.lcd.lineCount = 455) (line : (s.lcd.ly.toNat + 1) % 154 < 144) :
    ClockEffect s s.lcdTick false false true (decide ((s.lcd.ly.toNat + 1) % 154 = s.lcd.lyc.toNat)) := by
  have stat : (s.nextLine.setMode 2).lcd.stat.toNat / 4 = s.lcd.stat.toNat / 4 := s.nextLine.setMode_stat 2
  have compare := State.lineCompare_stat (s.nextLine.setMode 2)
  rw [State.lcdTick_visibleLine last line, ← s.toNat_nextLine_ly]
  refine ⟨?_, compare.1, compare.2.trans (div_eight_of_div_four stat)⟩
  rw [State.lineCompare_iflag, bitAt_of_div_four stat (by decide)]
  simp [nextLine]

theorem State.lcdTick_hblank_effect (visible : s.lcd.ly.toNat < 144) (position : s.lcd.lineCount = 245) (equal : Bool) :
    ClockEffect s s.lcdTick false true false equal := by
  have stat : (s.nextPosition.setMode 0).lcd.stat.toNat / 4 = s.lcd.stat.toNat / 4 := s.nextPosition.setMode_stat 0
  rw [State.lcdTick_hblank visible position]
  refine ⟨?_, ?_, ?_⟩
  · rw [State.statRequest_iflag, State.deliverScanline_lcd, bitAt_of_div_four stat (by decide)]
    simp [nextPosition]
  · rw [State.statRequest_lcd]
    exact bitAt_of_div_four stat (Nat.le_refl 2)
  · rw [State.statRequest_lcd]
    exact div_eight_of_div_four stat

end Effect

/-- The effect of any clock, the flags as the timing table has them (60_exceptions.md R443). -/
theorem State.lcdTick_effect (s : State) :
    ClockEffect s s.lcdTick (decide (s.lcd.lineCount = 455) && decide ((s.lcd.ly.toNat + 1) % 154 = 144))
      (decide (s.lcd.ly.toNat < 144 ∧ s.lcd.lineCount = 245))
      (decide (s.lcd.lineCount = 455) && decide ((s.lcd.ly.toNat + 1) % 154 ≤ 144))
      (decide ((s.lcd.ly.toNat + 1) % 154 = s.lcd.lyc.toNat)) := by
  by_cases last : s.lcd.lineCount = 455
  · have noHblank : ¬(s.lcd.ly.toNat < 144 ∧ s.lcd.lineCount = 245) := by omega
    rw [decide_eq_true last, decide_eq_false noHblank, Bool.true_and, Bool.true_and]
    rcases Nat.lt_trichotomy ((s.lcd.ly.toNat + 1) % 154) 144 with line | line | line
    · rw [decide_eq_false line.ne, decide_eq_true line.le]
      exact State.lcdTick_visibleLine_effect last line
    · rw [decide_eq_true line, decide_eq_true line.le]
      exact State.lcdTick_vblank_effect last line
    · rw [decide_eq_false line.ne', decide_eq_false (Nat.not_le.mpr line), State.lcdTick_vblankLine last line]
      exact .quiet _ rfl rfl
  · rw [decide_eq_false last, Bool.false_and, Bool.false_and]
    by_cases hblank : s.lcd.ly.toNat < 144 ∧ s.lcd.lineCount = 245
    · rw [decide_eq_true hblank]
      exact State.lcdTick_hblank_effect hblank.1 hblank.2 _
    · rw [decide_eq_false hblank]
      by_cases draw : s.lcd.ly.toNat < 144 ∧ s.lcd.lineCount = 76
      · rw [State.lcdTick_draw draw.1 draw.2]
        exact .quiet _ rfl (s.nextPosition.setMode_stat 3)
      · rw [State.lcdTick_between last (by omega)]
        exact .quiet _ rfl rfl

/-- Settles O55: the laws of the position, the mode and the split of the clocks. -/
theorem lcdFollowsTheTimingTable : Obligations.LcdFollowsTheTimingTable := by
  intro n m s synced
  exact ⟨State.lcdClock_synced n synced, State.lcdClock_position n synced, State.lcdClock_add n m s⟩

/-- Settles O56: the effect of each kind of clock, and IE is outside the shape of a clock. -/
theorem lcdRequestsInterrupts : Obligations.LcdRequestsInterrupts := by
  intro s _
  obtain ⟨iflag, compared, enables⟩ := s.lcdTick_effect
  exact ⟨iflag, compared, enables, by rw [s.lcdTick_shape]⟩

/-! ### Scanlines -/

/-- Within a line, clocks that do not pass the start of H-Blank of a visible line deliver nothing and change nothing that
RenderLine sees (60_exceptions.md R449). -/
theorem State.lcdClock_quiet {n : Nat} {s : State} (inside : s.lcd.lineCount + n ≤ 455)
    (quiet : 144 ≤ s.lcd.ly.toNat ∨ s.lcd.lineCount + n ≤ 245 ∨ 246 ≤ s.lcd.lineCount) :
    (State.lcdClock n s).lcd.lineCount = s.lcd.lineCount + n ∧ (State.lcdClock n s).renderInput = s.renderInput ∧
      (State.lcdClock n s).out.scanlines = s.out.scanlines := by
  induction n generalizing s with
  | zero => exact ⟨rfl, rfl, rfl⟩
  | succ n ih =>
    have tick : s.lcdTick.lcd.lineCount = s.lcd.lineCount + 1 ∧ s.lcdTick.renderInput = s.renderInput ∧
        s.lcdTick.out.scanlines = s.out.scanlines := by
      by_cases draw : s.lcd.ly.toNat < 144 ∧ s.lcd.lineCount = 76
      · rw [State.lcdTick_draw draw.1 draw.2]
        exact ⟨rfl, rfl, rfl⟩
      · rw [State.lcdTick_between (by omega) (by omega)]
        exact ⟨rfl, rfl, rfl⟩
    obtain ⟨position, input, scanlines⟩ := tick
    have ly : s.lcdTick.lcd.ly = s.lcd.ly := congrArg Config.RenderInput.line input
    obtain ⟨position', input', scanlines'⟩ := ih (s := s.lcdTick) (by omega) (by rw [ly]; omega)
    exact ⟨position'.trans (by omega), input'.trans input, scanlines'.trans scanlines⟩

/-- The first clock of a line delivers nothing. -/
theorem State.lcdTick_last_scanlines {s : State} (last : s.lcd.lineCount = 455) :
    s.lcdTick.out.scanlines = s.out.scanlines := by
  rcases Nat.lt_trichotomy ((s.lcd.ly.toNat + 1) % 154) 144 with line | line | line
  · rw [State.lcdTick_visibleLine last line, State.lineCompare_out]
    rfl
  · rw [State.lcdTick_vblank last line, State.lineCompare_out, State.statRequest_out]
    rfl
  · rw [State.lcdTick_vblankLine last line]
    rfl

/-- The clocks inside a visible line deliver its scanline at the start of H-Blank, clock 246, and nothing else. -/
theorem State.lcdClock_visible_scanlines {s : State} (start : s.lcd.lineCount = 0) (visible : s.lcd.ly.toNat < 144) :
    (State.lcdClock 455 s).lcd.lineCount = 455 ∧ (State.lcdClock 455 s).out.scanlines =
      s.out.scanlines ++ [{ line := s.lcd.ly, pixels := Config.renderLine s.renderInput }] := by
  have split : State.lcdClock 455 s = State.lcdClock 209 (State.lcdClock 245 s).lcdTick := by
    rw [← State.lcdClock_add 245 210 s, State.lcdClock]
  obtain ⟨position, input, scanlines⟩ := State.lcdClock_quiet (n := 245) (s := s) (by omega) (by omega)
  generalize State.lcdClock 245 s = u at split position input scanlines
  have ly : u.lcd.ly = s.lcd.ly := congrArg Config.RenderInput.line input
  have hblank := State.lcdTick_hblank (s := u) (by rw [ly]; exact visible) (by omega)
  have delivered : u.lcdTick.lcd.lineCount = 246 ∧ u.lcdTick.out.scanlines =
      s.out.scanlines ++ [{ line := s.lcd.ly, pixels := Config.renderLine s.renderInput }] := by
    rw [hblank, State.statRequest_lcd, State.statRequest_out, ← ly, ← input, ← scanlines]
    exact ⟨by show u.lcd.lineCount + 1 = 246; omega, rfl⟩
  obtain ⟨position', -, scanlines'⟩ := State.lcdClock_quiet (n := 209) (s := u.lcdTick) (by omega) (by omega)
  rw [split]
  exact ⟨by omega, scanlines'.trans delivered.2⟩

/-- Settles O57: the first 455 clocks stay in the line, and the last one starts the next line without a delivery. -/
theorem oneScanlinePerVisibleLine : Obligations.OneScanlinePerVisibleLine := by
  intro s synced start
  have split : State.lcdClock 456 s = (State.lcdClock 455 s).lcdTick := by
    rw [← State.lcdClock_add 455 1 s]
    rfl
  have position := State.lcdClock_position 456 synced
  have after := State.lcdClock_synced 456 synced
  refine ⟨fun visible => ?_, fun vblank => ?_, ?_, s.lcdClock_shape 456⟩
  · obtain ⟨last, scanlines⟩ := State.lcdClock_visible_scanlines start visible
    rw [split, State.lcdTick_last_scanlines last, scanlines]
  · obtain ⟨last, -, scanlines⟩ := State.lcdClock_quiet (n := 455) (s := s) (by omega) (.inl vblank)
    rw [split, State.lcdTick_last_scanlines (by omega), scanlines]
  · have line := after.line
    have inLine := after.position
    omega

end Sys2Proof.Machine
end

section
/-! The step of a running machine (60_exceptions.md R401): the instruction that the bytes at pc encode, or the fault of an
illegal byte (R420). -/

namespace Sys2Proof.Machine

/-! ### What the bytes at pc encode -/

/-- Three bytes begin with a list of at most three that they agree with at every place it has. -/
theorem three_bytes_begin_with {bytes : List Byte} {b d1 d2 : Byte} (short : bytes.length ≤ 3)
    (h : ∀ k < bytes.length, [b, d1, d2].getD k 0 = bytes.getD k 0) : bytes <+: [b, d1, d2] := by
  refine List.prefix_iff_getElem.mpr ⟨short, fun k hk => ?_⟩
  have fits : k < [b, d1, d2].length := Nat.lt_of_lt_of_le hk short
  rw [← List.getD_eq_getElem _ 0 hk, ← List.getD_eq_getElem _ 0 fits]
  exact (h k hk).symm

/-- The machine fetches the instruction whose encoding stands at `a` (30_encoding.md R136; 20_memory.md R71, R73). -/
theorem State.fetchAt_of_encode {s : State} {a : Word} {i : Instr} (wf : i.wf = true)
    (h : ∀ k < i.size, s.memRead (a + BitVec.ofNat 16 k) = (encode i).getD k 0) : s.fetchAt a = i := by
  rw [← encode_length] at h
  have short := (encode_length_bounds i).2
  refine decodeBytes_of_encode_prefix wf (three_bytes_begin_with short fun k hk => ?_)
  rw [← h k hk]
  match k, (show k < 3 by omega) with
  | 0, _ => exact congrArg s.memRead (BitVec.add_zero a).symm
  | 1, _ => rfl
  | 2, _ => rfl

/-! ### The eleven illegal instructions, and the others -/

/-- An illegal instruction is encoded as one illegal byte, has length 0 and raises the fault of its byte
(30_encoding.md R134; 60_exceptions.md R420). -/
structure RaisesIllegal (i : Instr) (b : Byte) : Prop where
  listed : b ∈ illegalBytes
  encoding : encode i = [b]
  length : i.length = 0
  raises : ∀ s, exec i s = s.raiseIllegal b

theorem Instr.raises_of_illegal {i : Instr} (h : i.illegal = true) : ∃ b, RaisesIllegal i b := by
  cases i
  case illegalD3 | illegalDB | illegalDD | illegalE3 | illegalE4 | illegalEB | illegalEC | illegalED | illegalF4
    | illegalFC | illegalFD => exact ⟨_, by decide, rfl, rfl, fun _ => rfl⟩
  all_goals nomatch h

/-- A conditional form completes in both outcomes. -/
theorem completes_of_branches {p : Prop} [Decidable p] (m n : Nat) (taken untaken : State) :
    ∃ t, (if p then finish m taken else finish n untaken) = .next t := by
  split <;> exact ⟨_, rfl⟩

/-- Every legal instruction completes. -/
theorem exec_completes {i : Instr} (h : i.illegal = false) (s : State) : ∃ t, exec i s = .next t := by
  cases i
  case jpCcA16 | jrCcE8 | callCcA16 | retCc => exact completes_of_branches _ _ _ _
  case illegalD3 | illegalDB | illegalDD | illegalE3 | illegalE4 | illegalEB | illegalEC | illegalED | illegalF4
    | illegalFC | illegalFD => nomatch h
  all_goals exact ⟨_, rfl⟩

/-- An instruction faults only as an illegal one. -/
theorem exec_fault {i : Instr} {s : State} {r : Fault} (h : exec i s = .fault r) :
    ∃ b, RaisesIllegal i b ∧ s.raiseIllegal b = .fault r := by
  cases illegal : i.illegal with
  | true =>
    obtain ⟨b, raises⟩ := Instr.raises_of_illegal illegal
    exact ⟨b, raises, (raises.raises s).symm.trans h⟩
  | false =>
    obtain ⟨t, run⟩ := exec_completes illegal s
    rw [run] at h
    nomatch h

/-- The illegal instructions are read from the illegal first bytes and from no other (30_encoding.md R134). -/
theorem decodeBytes_illegal_iff (b d1 d2 : Byte) : (decodeBytes b d1 d2).illegal = true ↔ b ∈ illegalBytes := by
  refine ⟨fun h => ?_, fun h => ?_⟩
  · obtain ⟨c, raises⟩ := Instr.raises_of_illegal h
    have read := encode_decodeBytes_prefix b d1 d2
    rw [raises.encoding] at read
    rw [← (List.cons_prefix_cons.mp read).1]
    exact raises.listed
  · fin_cases h <;> rfl

/-! ### The step -/

/-- A running machine's step: the instruction at pc, with pc past it, then steps 4 to 7. -/
theorem step_running {s : State} (h : s.Running) : step s =
    match exec (s.fetchAt s.cpu.pc) (s.beginStep.advancePc (s.fetchAt s.cpu.pc)) with
    | .next t => .next (t.finishStep s.cpu.imePending)
    | .fault r => .fault r
    | .refused r => .refused r := by
  have run : runInstruction s.beginStep =
      exec (s.fetchAt s.cpu.pc) (s.beginStep.advancePc (s.fetchAt s.cpu.pc)) :=
    if_neg (by rw [State.beginStep_cpu, h.halted]; decide)
  unfold step
  rw [h.faulted, h.stopped, run]
  rfl

/-- Only a running machine's step faults, and it is the instruction at pc that raises the fault. -/
theorem step_fault {s : State} {r : Fault} (h : step s = .fault r) :
    s.Running ∧ exec (s.fetchAt s.cpu.pc) (s.beginStep.advancePc (s.fetchAt s.cpu.pc)) = .fault r := by
  cases faulted : s.cpu.faulted with
  | true =>
    rw [step, if_pos faulted] at h
    nomatch h
  | false =>
    cases stopped : s.cpu.stopped with
    | true =>
      rw [step, faulted, if_pos stopped] at h
      nomatch h
    | false =>
      cases halted : s.cpu.halted with
      | true =>
        rw [step_halted faulted stopped halted] at h
        nomatch h
      | false =>
        have running : s.Running := ⟨halted, stopped, faulted⟩
        refine ⟨running, ?_⟩
        rw [step_running running] at h
        split at h
        · nomatch h
        · cases h
          assumption
        · nomatch h

theorem State.wakeCheck_eq (s : State) : s.wakeCheck =
    if s.cpu.halted = true ∧ s.cpu.stopped = false ∧ s.pendingNow ≠ 0 then
      { s with cpu := { s.cpu with halted := false } }
    else s := by
  have condition : (!s.cpu.stopped && s.cpu.halted && s.irq.pending != 0) = true ↔
      s.cpu.halted = true ∧ s.cpu.stopped = false ∧ s.pendingNow ≠ 0 := by
    have pending : s.irq.pending = s.pendingNow := rfl
    rw [pending]
    simp only [Bool.and_eq_true, Bool.not_eq_true', bne_iff_ne]
    tauto
  exact if_congr condition rfl rfl

/-- Settles O35: the fetched instruction is `i`, and steps 4 to 7 are the phases of `finishStep`. -/
theorem stepRunsTheDecodedInstruction : Obligations.StepRunsTheDecodedInstruction := by
  intro s i running wf bytes
  have start : s.beginStep.advancePc i =
      { s with cpu := { s.cpu with pc := s.cpu.pc + BitVec.ofNat 16 i.length }, out := StepOut.empty } := rfl
  rw [step_running running, State.fetchAt_of_encode wf bytes, start]
  cases exec i _ with
  | fault r => rfl
  | refused r => rfl
  | next t =>
    dsimp only
    rw [← State.wakeCheck_eq]
    rfl

/-- Settles O36: the fetched instruction is illegal exactly if the byte at pc is, an illegal one raises the fault with pc
where it was, and every other completes. -/
theorem stepFaultsExactlyOnIllegalByte : Obligations.StepFaultsExactlyOnIllegalByte := by
  intro s running
  have illegal : (s.fetchAt s.cpu.pc).illegal = true ↔ s.memRead s.cpu.pc ∈ illegalBytes :=
    decodeBytes_illegal_iff _ _ _
  rw [step_running running, ← illegal]
  refine ⟨fun h => ?_, fun h => ?_⟩
  · obtain ⟨b, raises⟩ := Instr.raises_of_illegal h
    have read : encode (s.fetchAt s.cpu.pc) <+: _ := encode_decodeBytes_prefix _ _ _
    rw [raises.encoding] at read
    have samePc : s.beginStep.advancePc (s.fetchAt s.cpu.pc) = s.beginStep := by
      rw [State.advancePc, raises.length]
      exact congrArg s.beginStep.setPc (BitVec.add_zero _)
    rw [raises.raises, samePc, ← (List.cons_prefix_cons.mp read).1]
    rfl
  · obtain ⟨t, run⟩ := exec_completes (Bool.eq_false_iff.mpr h) (s.beginStep.advancePc (s.fetchAt s.cpu.pc))
    rw [run]
    exact ⟨_, rfl⟩

/-! ### Stopped and faulted machines -/

theorem step_faulted {s : State} (h : s.cpu.faulted = true) : step s = .refused .machineFaulted := if_pos h

theorem step_stopped {s : State} (faulted : s.cpu.faulted = false) (stopped : s.cpu.stopped = true) :
    step s = .next s.beginStep := by
  rw [step, faulted, if_pos stopped]
  rfl

theorem run_succ_of_next {M : Host.Core} {s t : M.State} (h : M.step s = .next t) (k : Nat) :
    M.run (k + 1) s = M.run k t := by
  rw [Host.Core.run, h]

/-- However many steps, a stopped machine only forgets what the last step before delivered (60_exceptions.md R404). -/
theorem run_stopped (k : Nat) {s : State} (faulted : s.cpu.faulted = false) (stopped : s.cpu.stopped = true) :
    Host.Core.run core (k + 1) s = .next s.beginStep := by
  induction k generalizing s with
  | zero => exact run_succ_of_next (M := core) (step_stopped faulted stopped) 0
  | succ k ih =>
    have again : Host.Core.run core (k + 1) s.beginStep = .next s.beginStep := ih (s := s.beginStep) faulted stopped
    exact (run_succ_of_next (M := core) (step_stopped faulted stopped) (k + 1)).trans again

/-- The state a fault leaves is the machine before the instruction with `faulted` set (60_exceptions.md R420). -/
theorem State.raiseIllegal_faulted {s t : State} {b opcode : Byte} {addr : Word}
    (h : s.raiseIllegal b = .fault (.illegalOpcode opcode addr t)) : t.cpu.faulted = true := by
  cases h
  rfl

/-- Settles O37: stopped steps by induction; a fault comes from an illegal instruction, which sets `faulted`; and of the host
operations only a reset clears it. -/
theorem stoppedIdlesAndFaultedHasNoStep : Obligations.StoppedIdlesAndFaultedHasNoStep := by
  intro s
  refine ⟨step_faulted, fun faulted stopped k => ?_, fun opcode addr t fault => ?_, fun faulted => ?_,
    s.hostReset_faulted⟩
  · exact ⟨_, run_stopped k faulted stopped, rfl, rfl, rfl, rfl, rfl, rfl, rfl, rfl, rfl, rfl, rfl⟩
  · obtain ⟨b, -, raised⟩ := exec_fault (step_fault fault).2
    exact step_faulted (State.raiseIllegal_faulted raised)
  · refine ⟨fun key pressed => ?_, fun addr value => ?_, fun d => ?_⟩
    · rw [State.input_faulted, faulted]
    · rw [State.writeMemory_cpu, faulted]
    · rw [State.deserialize_faulted, faulted, Bool.true_or]

end Sys2Proof.Machine
end

section
/-! Interrupts (60_exceptions.md R402..R412): the dispatch check, the step of a halted machine, and the return that undoes an
entry. -/

namespace Sys2Proof.Machine

/-! ### The dispatch check -/

/-- Bit `k` is the highest-priority one of those enabled and requested (60_exceptions.md R405, R408). -/
structure State.Highest (s : State) (k : Nat) : Prop where
  bound : k < 5
  pending : s.pendingNow.toNat / 2 ^ k % 2 = 1
  lowest : s.pendingNow.toNat % 2 ^ k = 0

theorem lowestSet_of_lowest : ∀ pend : Byte, ∀ k < 5, pend.toNat / 2 ^ k % 2 = 1 → pend.toNat % 2 ^ k = 0 →
    lowestSet pend = k := by decide

section Highest

variable {s : State} {k : Nat} (h : s.Highest k)

include h

theorem State.Highest.lowestSet_eq : lowestSet s.pendingNow = k :=
  lowestSet_of_lowest _ k h.bound h.pending h.lowest

theorem State.Highest.pendingNow_ne_zero : s.pendingNow ≠ 0 := by
  intro none
  have pending := h.pending
  rw [none, show (0 : Byte).toNat = 0 from rfl, Nat.zero_div] at pending
  nomatch pending

/-- The pending interrupt is requested in IF. -/
theorem State.Highest.requested : bitAt s.irq.iflag.toNat k = 1 := by
  have pending : bitOf s.pendingNow k = true := (bitOf_eq_bitAt _ _).trans (decide_eq_true h.pending)
  have requested : bitOf s.irq.iflag k = true := by
    simp only [bitOf, State.pendingNow, BitVec.getLsbD_and, Bool.and_eq_true] at pending
    exact pending.1.2
  exact of_decide_eq_true ((bitOf_eq_bitAt _ _).symm.trans requested)

/-- Clearing the bit of the taken interrupt is subtracting its weight. -/
theorem State.Highest.clear_iflag : s.irq.iflag &&& ~~~bitMask k = BitVec.ofNat 8 (s.irq.iflag.toNat - 2 ^ k) := by
  rw [and_not_bitMask_eq _ (Nat.lt_trans h.bound (by decide)), withoutBit, h.requested, Nat.one_mul]

theorem State.dispatchCheck_takes (ime : s.cpu.ime = true) (stopped : s.cpu.stopped = false) :
    s.dispatchCheck = s.takeInterrupt k := by
  have pending : s.irq.pending = s.pendingNow := rfl
  have condition : (s.cpu.ime && s.irq.pending != 0 && !s.cpu.stopped) = true := by
    rw [ime, stopped, pending, bne_iff_ne.mpr h.pendingNow_ne_zero]
    rfl
  rw [State.dispatchCheck, if_pos condition, pending, h.lowestSet_eq]
  rfl

end Highest

theorem State.dispatchCheck_passes {s : State} (h : s.cpu.ime = false ∨ s.cpu.stopped = true ∨ s.pendingNow = 0) :
    s.dispatchCheck = s := by
  rcases s.dispatchCheck_cases with passed | ⟨ime, stopped, pending, -⟩
  · exact passed
  · rcases h with h | h | h
    · rw [h] at ime; nomatch ime
    · rw [h] at stopped; nomatch stopped
    · exact absurd h pending

@[simp] theorem State.dispatchCheck_out (s : State) : s.dispatchCheck.out = s.out := by
  rcases s.dispatchCheck_cases with e | ⟨-, -, -, e⟩
  · rw [e]
  · rw [e, State.takeInterrupt_eq, State.reframe_out]

/-- Another CPU after some writes leaves everything else as they do. -/
theorem SameRest.storeAll_reframe (s : State) (ws : List (Word × Byte)) (c : Cpu) :
    SameRest (s.storeAll ws) ((s.storeAll ws).reframe c s.out) := by
  have out := (s.storeAll_keeps ws).2.1
  exact ⟨rfl, rfl, rfl, rfl, rfl, rfl, rfl, rfl, rfl, by rw [out]; rfl, by rw [out]; rfl⟩

/-- Settles O40: the interrupt taken is the lowest bit, and its bit of IF is set, so that clearing it is a subtraction. -/
theorem dispatchTakesHighestPriority : Obligations.DispatchTakesHighestPriority := by
  intro t
  refine ⟨fun k bound ime stopped pending lowest => ?_, State.dispatchCheck_passes⟩
  have highest : t.Highest k := ⟨bound, pending, lowest⟩
  dsimp only
  rw [State.dispatchCheck_takes highest ime stopped, State.takeInterrupt_eq, highest.clear_iflag]
  exact ⟨rfl, .storeAll_reframe _ _ _, rfl⟩

/-! ### The step of a halted machine -/

/-- Below the I/O block no read sees the devices. -/
theorem State.clockDevices_memRead (n : Nat) (s : State) {a : Word} (h : a.toNat < 0xFF00) :
    (State.clockDevices n s).memRead a = s.memRead a := by
  have bounds := regionOf_bounds (a := a) rfl
  rw [State.clockDevices_shape]
  unfold State.memRead
  generalize regionOf a = r at bounds
  cases r
  case io | hram | ie =>
    simp only [Region.low] at bounds
    omega
  all_goals rfl

/-- `s` once a pending EI has taken effect, 4 cycles spent: what a halted step clocks the devices from. -/
def State.haltedStart (s : State) : State :=
  { s with
    cpu := { s.cpu with ime := s.cpu.ime || s.cpu.imePending, imePending := false }
    out := { StepOut.empty with cycles := 4 } }

theorem State.haltedStart_eq (s : State) : s.beginStep.idle.promoteEi s.cpu.imePending = s.haltedStart := by
  unfold State.haltedStart
  rcases State.promoteEi_cases s.cpu.imePending s.beginStep.idle with ⟨same, unset⟩ | ⟨pending, -, promoted⟩
  · have unset : s.cpu.imePending = false := unset.elim id id
    rw [same, unset, Bool.or_false, ← unset]
    rfl
  · rw [promoted, pending, Bool.or_true]
    rfl

/-- The wake check of a halted machine (60_exceptions.md R403). -/
theorem State.wakeCheck_halted {s : State} (halted : s.cpu.halted = true) (stopped : s.cpu.stopped = false) :
    s.wakeCheck = s.reframe { s.cpu with halted := decide (s.pendingNow = 0) } s.out := by
  rw [State.wakeCheck_eq]
  by_cases none : s.pendingNow = 0
  · rw [if_neg (fun h => h.2.2 none), decide_eq_true none, ← halted]
    rfl
  · rw [if_pos ⟨halted, stopped, none⟩, decide_eq_false none]
    rfl

/-- Settles O38: a halted step is the wake check and the dispatch check on the clocked machine. -/
theorem haltedStepIdlesAndWakes : Obligations.HaltedStepIdlesAndWakes := by
  intro s faulted stopped halted
  let d := State.clockDevices 4 s.haltedStart
  let woken : Cpu :=
    { s.cpu with ime := s.cpu.ime || s.cpu.imePending, imePending := false, halted := decide (d.pendingNow = 0) }
  obtain ⟨cpu, ram, mapper, -, joypad, link, -, -, cycles, -⟩ := devicesLeaveCpuAndMemory 4 s.haltedStart
  have wake : d.wakeCheck = d.reframe woken d.out := by
    rw [State.wakeCheck_halted (by rw [cpu]; exact halted) (by rw [cpu]; exact stopped), cpu]
    rfl
  have run : step s = .next (d.reframe woken d.out).dispatchCheck := by
    rw [step_halted faulted stopped halted, State.finishStep, State.haltedStart_eq, ← wake]
    rfl
  refine ⟨_, run, ?cycles, step_cart run, fun passed => ?passes, fun k bound ime pending lowest => ?takes⟩
  case cycles =>
    rw [State.dispatchCheck_out]
    exact cycles
  case passes =>
    rw [State.dispatchCheck_passes (passed.imp_right .inr)]
    exact ⟨rfl, .storeAll_reframe d [] woken, joypad, link, mapper, ram, fun a below =>
      (d.reframe_memRead _ _ a).trans (State.clockDevices_memRead 4 _ below)⟩
  case takes =>
    obtain ⟨taken, stores, -⟩ :=
      (dispatchTakesHighestPriority (d.reframe woken d.out)).1 k bound ime stopped pending lowest
    let cleared : State := { d with irq := { d.irq with iflag := BitVec.ofNat 8 (d.irq.iflag.toNat - 2 ^ k) } }
    refine ⟨taken, .trans ?_ stores⟩
    have writes := cleared.storeAll_reframe woken d.out
      [(s.cpu.sp - 1, highHalf s.cpu.pc), (s.cpu.sp - 2, lowHalf s.cpu.pc)]
    exact writes.symm ▸ .storeAll_reframe cleared _ woken

/-! ### Returns -/

section Return

variable {s : State} (stored : s.Stored) (low : 0xC002 ≤ s.cpu.sp.toNat) (high : s.cpu.sp.toNat ≤ 0xE000)

include stored low high

/-- A word pushed on a stack in work RAM is what a pop there reads. -/
theorem State.pushed_memRead (v : Word) :
    let t := s.storeAll [(s.cpu.sp - 1, highHalf v), (s.cpu.sp - 2, lowHalf v)]
    t.memRead (s.cpu.sp - 1) = highHalf v ∧ t.memRead (s.cpu.sp - 2) = lowHalf v := by
  have one : (s.cpu.sp - 1).toNat = s.cpu.sp.toNat - 1 := by
    rw [BitVec.toNat_sub_of_le (BitVec.le_def.mpr (Nat.le_trans (by decide) low))]; rfl
  have two : (s.cpu.sp - 2).toNat = s.cpu.sp.toNat - 2 := by
    rw [BitVec.toNat_sub_of_le (BitVec.le_def.mpr (Nat.le_trans (by decide) low))]; rfl
  have apart : touches (s.cpu.sp - 2) (s.cpu.sp - 1) = false := by
    rw [touches, if_neg (by omega), if_pos (by omega)]
    exact decide_eq_false (by omega)
  dsimp only [State.storeAll]
  refine ⟨?_, State.memRead_memWrite_same (State.memWrite_stored stored _ _) _ (by omega)⟩
  rw [State.memWrite_frame _ _ apart, State.memRead_memWrite_same stored _ (by omega)]

/-- A return after `v` was pushed goes to `v`, with SP as before the push (45_control.md R347). -/
theorem State.return_of_pushed (v : Word) {c : Cpu} (sp : c.sp = s.cpu.sp - 2) (o : StepOut) :
    ((s.storeAll [(s.cpu.sp - 1, highHalf v), (s.cpu.sp - 2, lowHalf v)]).reframe c o).return =
      (s.storeAll [(s.cpu.sp - 1, highHalf v), (s.cpu.sp - 2, lowHalf v)]).reframe
        { c with pc := v, sp := s.cpu.sp } o := by
  have second : BitVec.ofNat 16 ((s.cpu.sp - 2).toNat + 1) = s.cpu.sp - 1 := by bv_omega
  have after : BitVec.ofNat 16 ((s.cpu.sp - 2).toNat + 2) = s.cpu.sp := by bv_omega
  obtain ⟨hi, lo⟩ := State.pushed_memRead stored low high v
  rw [State.return_eq]
  simp only [State.reframe_memRead, State.reframe_cpu, State.reframe_reframe, State.reframe_out, sp, second, after, hi, lo,
    fromHalves_halves]

end Return

/-- Settles O43: CALL and taking an interrupt push pc, and a return pops it. -/
theorem returnUndoesCallAndDispatch : Obligations.ReturnUndoesCallAndDispatch := by
  intro s stored low high
  refine ⟨fun w => ?_, fun k _ => ?_⟩
  · have call : exec (.callA16 w) s = finish 24 (s.call w) := rfl
    rw [State.call_eq, finish_reframe] at call
    refine ⟨_, _, call, rfl, ?_⟩
    rw [State.spend_cpu, State.return_of_pushed stored low high _ rfl]
    rfl
  · have back := State.return_of_pushed (s := { s with irq := { s.irq with iflag := s.irq.iflag &&& ~~~bitMask k } })
      (stored.congr rfl rfl rfl) low high s.cpu.pc
      (c := { s.cpu with pc := vectorOf k, sp := s.cpu.sp - 2, ime := false, imePending := false, halted := false }) rfl s.out
    rw [← State.takeInterrupt_eq] at back
    refine ⟨_, rfl, ?_⟩
    rw [State.returnFromInterrupt_eq, back]
    exact ⟨rfl, rfl, rfl⟩

end Sys2Proof.Machine
end

section
/-! A halted machine with nothing enabled in IE (60_exceptions.md R402, R403, R405; 70_reset_and_hazards.md R518): each of its
steps clocks the devices and leaves it as it was. -/

namespace Sys2Proof.Machine

/-! ### The LCD controller's position depends on nothing but the position -/

/-- Where the LCD controller is in the frame: the line and the position in it (60_exceptions.md R441). -/
def State.lcdPosition (s : State) : Byte × Nat := (s.lcd.ly, s.lcd.lineCount)

/-- The position one clock later (60_exceptions.md R443). -/
def nextLcdPosition (p : Byte × Nat) : Byte × Nat :=
  if p.2 + 1 = 456 then (BitVec.ofNat 8 ((p.1.toNat + 1) % 154), 0) else (p.1, p.2 + 1)

theorem State.lcdTick_lcdPosition (s : State) : s.lcdTick.lcdPosition = nextLcdPosition s.lcdPosition := by
  obtain ⟨lineCount, ly⟩ := s.lcdTick_position
  by_cases last : s.lcd.lineCount + 1 = 456 <;> simp [State.lcdPosition, nextLcdPosition, lineCount, ly, last]

theorem State.lcdClock_lcdPosition (n : Nat) (s : State) :
    (State.lcdClock n s).lcdPosition = nextLcdPosition^[n] s.lcdPosition := by
  induction n generalizing s with
  | zero => rfl
  | succ n ih => rw [State.lcdClock, ih, State.lcdTick_lcdPosition, Function.iterate_succ_apply]

theorem State.clockDevices_lcdPosition (n : Nat) (s : State) :
    (State.clockDevices n s).lcdPosition = nextLcdPosition^[n] s.lcdPosition := by
  rw [← State.lcdClock_lcdPosition, State.clockDevices_shape]
  rfl

/-! ### The step of a machine that sleeps -/

/-- A halted machine that no interrupt can wake: nothing is enabled in IE, and no EI is pending. -/
structure State.Asleep (s : State) : Prop where
  faulted : s.cpu.faulted = false
  stopped : s.cpu.stopped = false
  halted : s.cpu.halted = true
  noEi : s.cpu.imePending = false
  masked : s.irq.ie &&& 0x1F = 0

section Asleep

variable {s : State} (h : s.Asleep)

include h

theorem State.Asleep.congr {t : State} (cpu : t.cpu = s.cpu) (ie : t.irq.ie = s.irq.ie) : t.Asleep :=
  ⟨cpu ▸ h.faulted, cpu ▸ h.stopped, cpu ▸ h.halted, cpu ▸ h.noEi, ie ▸ h.masked⟩

/-- Whatever IF requests, nothing is pending. -/
theorem State.Asleep.pendingNow : s.pendingNow = 0 := by
  rw [State.pendingNow, BitVec.and_assoc, BitVec.and_comm s.irq.iflag, ← BitVec.and_assoc, h.masked]
  exact BitVec.zero_and

theorem State.Asleep.haltedStart_cpu : s.haltedStart.cpu = s.cpu := by
  simp only [State.haltedStart, h.noEi, Bool.or_false]
  rw [← h.noEi]

theorem State.Asleep.clocked : (State.clockDevices 4 s.haltedStart).Asleep := by
  obtain ⟨cpu, -, -, -, -, -, -, ie, -⟩ := devicesLeaveCpuAndMemory 4 s.haltedStart
  exact h.congr (cpu.trans h.haltedStart_cpu) ie

/-- The wake check finds nothing pending, nor does the dispatch check. -/
theorem State.Asleep.step : step s = .next (State.clockDevices 4 s.haltedStart) := by
  have none := h.clocked.pendingNow
  have wake : (State.clockDevices 4 s.haltedStart).wakeCheck = State.clockDevices 4 s.haltedStart :=
    (State.wakeCheck_cases _).resolve_right fun woken => woken.2.2.1 none
  have finish : s.beginStep.idle.finishStep s.cpu.imePending =
      (State.clockDevices 4 s.haltedStart).wakeCheck.dispatchCheck := by
    rw [State.finishStep, State.haltedStart_eq]
    rfl
  rw [step_halted h.faulted h.stopped h.halted, finish, wake, State.dispatchCheck_passes (.inr (.inr none))]

end Asleep

/-! ### Any number of steps -/

/-- `t` is the sleeping machine `s` after `k` steps: the devices have gone on for 4 cycles a step. -/
structure SleptFor (k : Nat) (s t : State) : Prop where
  cpu : t.cpu = s.cpu
  ram : t.ram = s.ram
  mapper : t.mapper = s.mapper
  cart : t.cart = s.cart
  ie : t.irq.ie = s.irq.ie
  position : t.lcdPosition = nextLcdPosition^[4 * k] s.lcdPosition

theorem SleptFor.refl (s : State) : SleptFor 0 s s := ⟨rfl, rfl, rfl, rfl, rfl, rfl⟩

theorem State.Asleep.sleptFor_one {s : State} (h : s.Asleep) : SleptFor 1 s (State.clockDevices 4 s.haltedStart) := by
  obtain ⟨cpu, ram, mapper, cart, -, -, -, ie, -⟩ := devicesLeaveCpuAndMemory 4 s.haltedStart
  exact ⟨cpu.trans h.haltedStart_cpu, ram, mapper, cart, ie, State.clockDevices_lcdPosition 4 _⟩

theorem SleptFor.after_one {k : Nat} {s t u : State} (first : SleptFor 1 s t) (rest : SleptFor k t u) :
    SleptFor (k + 1) s u := by
  refine ⟨rest.cpu.trans first.cpu, rest.ram.trans first.ram, rest.mapper.trans first.mapper, rest.cart.trans first.cart,
    rest.ie.trans first.ie, ?_⟩
  rw [rest.position, first.position, ← Function.iterate_add_apply]
  rfl

theorem State.Asleep.run {s : State} (h : s.Asleep) (k : Nat) :
    ∃ t, Host.Core.run core k s = .next t ∧ SleptFor k s t := by
  induction k generalizing s with
  | zero => exact ⟨s, rfl, .refl s⟩
  | succ k ih =>
    obtain ⟨t, run, slept⟩ := ih h.clocked
    exact ⟨t, (run_succ_of_next (M := core) h.step k).trans run, h.sleptFor_one.after_one slept⟩

/-- Settles O39, by induction on the steps: a sleeping machine's step leaves a sleeping machine, and the LCD controller moves
by 4 positions, which depend on nothing but the position before. -/
theorem haltedWithNothingEnabledIsPermanent : Obligations.HaltedWithNothingEnabledIsPermanent := by
  intro s k faulted stopped halted noEi masked
  have asleep : s.Asleep := ⟨faulted, stopped, halted, noEi, masked⟩
  obtain ⟨t, run, slept⟩ := asleep.run k
  have position := slept.position
  rw [← State.lcdClock_lcdPosition] at position
  obtain ⟨ly, lineCount⟩ := Prod.mk.inj position
  exact ⟨t, run, slept.cpu, slept.ram, slept.mapper, slept.cart, slept.ie, lineCount, ly⟩

end Sys2Proof.Machine
end

section
/-! What memory-mapped registers read after a load and after `reset()` (70_reset_and_hazards.md R501..R505). -/

namespace Sys2Proof.Machine

/-- A read of the I/O block or of IE sees neither the cartridge nor any RAM. -/
theorem State.powerOn_memRead_device {a : Word} (h : regionOf a = .io ∨ regionOf a = .ie) (cart : Cartridge) (ram : Rams) :
    (State.powerOn cart ram).memRead a = State.reset.memRead a := by
  rcases h with h | h
  · rw [State.memRead_eq h, State.memRead_eq h]
    simp only [State.regionRead]
    cases ioRegOf a with
    | none => rfl
    | some r => cases r <;> rfl
  · rw [State.memRead_eq h, State.memRead_eq h]
    rfl

/-- A load and a `reset()` both leave a machine as after power-on, with some cartridge and RAM. -/
theorem powerOn_of_reset {s t : State} {cart : Cartridge} {ram : Rams} (h : t ∈ [State.powerOn cart ram, s.hostReset]) :
    ∃ c r, t = State.powerOn c r := by
  rcases List.mem_pair.mp h with rfl | rfl <;> exact ⟨_, _, rfl⟩

/-- Settles O2: the addresses of the table are of devices, so their values are those after the model's own reset; the rest
are fields of the reset state. -/
theorem resetGivesDeviceRegisters : Obligations.ResetGivesDeviceRegisters := by
  intro s cart ram t ht
  obtain ⟨cart, ram, rfl⟩ := powerOn_of_reset ht
  refine ⟨fun p listed => ?table, fun k hk => ?waveRam, rfl, rfl, rfl, rfl, rfl, rfl, rfl, rfl, rfl, rfl, rfl⟩
  case table =>
    have values : (regionOf p.1 = .io ∨ regionOf p.1 = .ie) ∧ State.reset.memRead p.1 = p.2 := by
      fin_cases listed <;> exact ⟨by decide, by decide⟩
    rw [State.powerOn_memRead_device values.1, values.2]
  case waveRam =>
    have values : (regionOf (BitVec.ofNat 16 (0xFF30 + k)) = .io ∨ regionOf (BitVec.ofNat 16 (0xFF30 + k)) = .ie) ∧
        State.reset.memRead (BitVec.ofNat 16 (0xFF30 + k)) = 0x00 := by
      revert k
      decide
    rw [State.powerOn_memRead_device values.1, values.2]

end Sys2Proof.Machine
end

section
/-! Loading a ROM image (70_reset_and_hazards.md R516; 20_memory.md R82, R96, R97, R100, R101). -/

namespace Sys2Proof.Machine

/-! ### The header bytes -/

theorem mapperKindOf_standard {code : Byte} (h : code.toNat ≤ 3) :
    mapperKindOf code = .ok (if code.toNat = 0 then .romOnly else .mbc1) := by
  unfold mapperKindOf
  by_cases zero : code = 0x00
  · subst zero
    rfl
  · have nonzero : code.toNat ≠ 0 := fun e => zero (BitVec.eq_of_toNat_eq e)
    rw [if_neg zero, if_pos h, if_neg nonzero]

theorem mapperKindOf_unsupported {code : Byte} (h : 4 ≤ code.toNat) (unsupported : ¬Config.mapperSupported code = true) :
    mapperKindOf code = .error (.unsupportedMapper code) := by
  have nonzero : code ≠ 0x00 := by
    rintro rfl
    nomatch h
  rw [mapperKindOf, if_neg nonzero, if_neg (Nat.not_le.mpr h), if_neg unsupported]

theorem ramBanksOf_listed {code : Byte} (h : code.toNat ≤ 3) :
    ramBanksOf code = .ok ([0, 1, 1, 4].getD code.toNat 0) := by
  unfold ramBanksOf
  generalize code.toNat = n at h
  match n, h with
  | 0, _ | 1, _ | 2, _ | 3, _ => rfl

theorem romBanksOf_eq (code : Byte) : romBanksOf code = 2 * 2 ^ code.toNat := Nat.shiftLeft_eq 2 code.toNat

/-! ### The image -/

theorem Cartridge.parse_truncated {bytes : List Byte} (h : bytes.length < 0x150) :
    Cartridge.parse bytes = .error .truncatedHeader := if_pos h

section Whole

variable {bytes : List Byte} (whole : 0x150 ≤ bytes.length)

include whole

theorem Cartridge.parse_unsupported {e : LoadError} (kind : mapperKindOf (bytes.getD 0x147 0) = .error e) :
    Cartridge.parse bytes = .error e := by
  rw [Cartridge.parse, if_neg (Nat.not_lt.mpr whole), kind]

theorem Cartridge.parse_ok {kind : MapperKind} {ramBanks : Nat} (hkind : mapperKindOf (bytes.getD 0x147 0) = .ok kind)
    (hram : ramBanksOf (bytes.getD 0x149 0) = .ok ramBanks) :
    Cartridge.parse bytes = .ok
      { rom := Memory.ofBytes 0 bytes
        romLength := bytes.length
        kind := kind
        romBanks := romBanksOf (bytes.getD 0x148 0)
        ramBanks := ramBanks } := by
  rw [Cartridge.parse, if_neg (Nat.not_lt.mpr whole), hkind, hram]

end Whole

/-- The bytes of a cartridge are those of its image, and the sentinel beyond it (20_memory.md R82). -/
theorem Cartridge.romByte_ofBytes {cart : Cartridge} {bytes : List Byte} (rom : cart.rom = Memory.ofBytes 0 bytes)
    (length : cart.romLength = bytes.length) (k : Nat) :
    cart.romByte k = if k < bytes.length then bytes.getD k 0 else 0xFF := by
  have read := Memory.read_ofBytes 0 k bytes
  rw [Nat.zero_add] at read
  rw [Cartridge.romByte, rom, length, read]
  rfl

/-! ### The load -/

theorem loadRom_of_parse_ok {bytes : List Byte} {cart : Cartridge} (h : Cartridge.parse bytes = .ok cart) (ram : Rams) :
    loadRom bytes ram = .ok (State.powerOn cart ram) := by
  rw [loadRom, h]

theorem loadRom_of_parse_error {bytes : List Byte} {e : LoadError} (h : Cartridge.parse bytes = .error e) (ram : Rams) :
    loadRom bytes ram = .error e := by
  rw [loadRom, h]

/-- Settles O4: the four outcomes of `Cartridge.parse`, by the length of the image and the header's two codes. -/
theorem loadReadsHeader : Obligations.LoadReadsHeader := by
  intro bytes ram current
  refine ⟨fun short => ?truncated, fun whole code => ?unsupported, fun e failed => ?untouched,
    fun whole kind ramCode => ?loads⟩
  case truncated => exact loadRom_of_parse_error (Cartridge.parse_truncated short) ram
  case unsupported =>
    refine or_iff_not_imp_left.mpr fun unsupported => ?_
    have failed := Cartridge.parse_unsupported whole (mapperKindOf_unsupported code unsupported)
    exact loadRom_of_parse_error failed ram
  case untouched => rw [reload, failed]
  case loads =>
    have parsed := Cartridge.parse_ok whole (mapperKindOf_standard kind) (ramBanksOf_listed ramCode)
    have loaded := loadRom_of_parse_ok parsed ram
    refine ⟨_, loaded, ?_, rfl, rfl, romBanksOf_eq _, rfl, rfl, Cartridge.romByte_ofBytes rfl rfl⟩
    rw [reload, loaded]

end Sys2Proof.Machine
end

section
/-! The cycle count of an instruction (70_reset_and_hazards.md R530, R531). -/

namespace Sys2Proof.Machine

theorem cycles_of_finish {n : Nat} {u t : State} (run : finish n u = .next t) : t.out.cycles = n := by
  cases run
  rfl

/-- Two runs of an instruction whose meaning ends with one cycle count. -/
theorem same_cycles_of_finish {n : Nat} {u u' t t' : State} (run : finish n u = .next t) (run' : finish n u' = .next t') :
    t.out.cycles = t'.out.cycles :=
  (cycles_of_finish run).trans (cycles_of_finish run').symm

/-- A conditional transfer has one cycle count for each outcome of its condition. -/
theorem cycles_of_branches {s u v t : State} {k : Cond} {n m : Nat}
    (run : (if s.cond k then finish n u else finish m v) = .next t) :
    t.out.cycles = if holds s.cpu.f k then n else m := by
  rw [cond_eq_holds] at run
  split at run
  · rw [if_pos ‹_›, cycles_of_finish run]
  · rw [if_neg ‹_›, cycles_of_finish run]

/-- Two runs of a conditional transfer with the same outcome of its condition. -/
theorem same_cycles_of_branches {s s' u u' v v' t t' : State} {k : Cond} {n m : Nat}
    (same : holds s.cpu.f k = holds s'.cpu.f k) (run : (if s.cond k then finish n u else finish m v) = .next t)
    (run' : (if s'.cond k then finish n u' else finish m v') = .next t') : t.out.cycles = t'.out.cycles := by
  rw [cycles_of_branches run, cycles_of_branches run', same]

theorem exec_same_cycles {i : Instr} {s s' t t' : State}
    (same : ∀ k, testsCondition i k → holds s.cpu.f k = holds s'.cpu.f k) (run : exec i s = .next t)
    (run' : exec i s' = .next t') : t.out.cycles = t'.out.cycles := by
  cases i
  case retCc k => exact same_cycles_of_branches (same k (.inl rfl)) run run'
  case jpCcA16 k w => exact same_cycles_of_branches (same k (.inr (.inl ⟨w, rfl⟩))) run run'
  case jrCcE8 k e => exact same_cycles_of_branches (same k (.inr (.inr (.inl ⟨e, rfl⟩)))) run run'
  case callCcA16 k w => exact same_cycles_of_branches (same k (.inr (.inr (.inr ⟨w, rfl⟩)))) run run'
  case illegalD3 | illegalDB | illegalDD | illegalE3 | illegalE4 | illegalEB | illegalEC | illegalED | illegalF4
    | illegalFC | illegalFD => nomatch run
  all_goals exact same_cycles_of_finish run run'

theorem exec_cycles_bounds {i : Instr} {s t : State} (run : exec i s = .next t) :
    t.out.cycles % 4 = 0 ∧ 4 ≤ t.out.cycles ∧ t.out.cycles ≤ 24 := by
  obtain ⟨ws, n, effect, bounds⟩ := (exec_next run).writes
  rw [effect]
  exact bounds

/-- Settles O34: every meaning ends with one cycle count, the four conditional ones with one for each outcome. -/
theorem cyclesDependOnlyOnPath : Obligations.CyclesDependOnlyOnPath :=
  fun _ _ _ _ _ same run run' => ⟨exec_same_cycles same run run', exec_cycles_bounds run⟩

end Sys2Proof.Machine
end

section
/-! EI and the two steps after it (70_reset_and_hazards.md R521; 46_misc.md R383, R384; 60_exceptions.md R401). -/

namespace Sys2Proof.Machine

/-! ### The bytes of EI and DI -/

/-- No byte but 0xF3 decodes to DI (46_misc.md R383). -/
theorem decodeBytes_di {b d1 d2 : Byte} (h : decodeBytes b d1 d2 = .di) : b = 0xF3 := by
  have read := encode_decodeBytes_prefix b d1 d2
  rw [h] at read
  exact (List.cons_prefix_cons.mp read).1.symm

/-- A byte that is an instruction whatever follows it. -/
theorem State.fetchAt_of_byte {s : State} {a : Word} {b : Byte} {i : Instr} (h : s.memRead a = b)
    (read : ∀ d1 d2, decodeBytes b d1 d2 = i) : s.fetchAt a = i := by
  rw [State.fetchAt, h, read]

/-! ### The end of a step -/

/-- With IME clear and no EI taking effect, the end of a running machine's step leaves the CPU alone. -/
theorem State.finishStep_cpu {s : State} {fire : Bool} (noEi : fire = false ∨ s.cpu.imePending = false)
    (ime : s.cpu.ime = false) (halted : s.cpu.halted = false) : (s.finishStep fire).cpu = s.cpu := by
  have unpromoted : s.promoteEi fire = s := by
    rcases State.promoteEi_cases fire s with ⟨same, -⟩ | ⟨fired, pending, -⟩
    · exact same
    · rcases noEi with unset | unset
      · exact absurd (unset.symm.trans fired) Bool.false_ne_true
      · exact absurd (unset.symm.trans pending) Bool.false_ne_true
  have unwoken : ∀ t : State, t.cpu = s.cpu → t.wakeCheck = t := fun t cpu =>
    t.wakeCheck_cases.resolve_right fun woken =>
      absurd (((congrArg Cpu.halted cpu).trans halted).symm.trans woken.1) Bool.false_ne_true
  have cpu := State.clockDevices_cpu s.out.cycles s
  rw [State.finishStep, unpromoted, unwoken _ cpu, State.dispatchCheck_passes (.inl (by rw [cpu, ime])), cpu]

@[simp] theorem State.wakeCheck_imePending (s : State) : s.wakeCheck.cpu.imePending = s.cpu.imePending := by
  rcases s.wakeCheck_cases with e | ⟨-, -, -, e⟩
  · rw [e]
  · rw [e, State.reframe_cpu]

theorem lowestSet_lt (pend : Byte) : lowestSet pend < 5 := by
  unfold lowestSet
  repeat' split
  all_goals decide

/-- EI has taken effect: none is pending any more, and IME is set, or an interrupt has been taken and pc is at its vector. -/
def State.EiDone (s : State) : Prop :=
  s.cpu.imePending = false ∧
    (s.cpu.ime = true ∨ s.cpu.ime = false ∧ ∃ k < 5, s.cpu.pc = BitVec.ofNat 16 (0x0040 + 8 * k))

/-- With IME set and no EI pending, the dispatch check takes an interrupt, which goes to its vector, or keeps IME. -/
theorem State.dispatchCheck_enabled {s : State} (ime : s.cpu.ime = true) (noEi : s.cpu.imePending = false) :
    s.dispatchCheck.EiDone := by
  rcases s.dispatchCheck_cases with passed | ⟨-, -, -, taken⟩
  · rw [passed]
    exact ⟨noEi, .inl ime⟩
  · rw [taken, State.takeInterrupt_eq]
    exact ⟨rfl, .inr ⟨rfl, _, lowestSet_lt _, rfl⟩⟩

/-- Where EI takes effect, IME is set, and only then can an interrupt be taken (60_exceptions.md R401 steps 4 and 7). -/
theorem State.finishStep_of_ei {s : State} (pending : s.cpu.imePending = true) : (s.finishStep true).EiDone := by
  have promoted : (s.promoteEi true).cpu = { s.cpu with ime := true, imePending := false } := by
    rw [State.promoteEi, pending]
    rfl
  apply State.dispatchCheck_enabled
  · rw [State.wakeCheck_ime, State.clockDevices_cpu, promoted]
  · rw [State.wakeCheck_imePending, State.clockDevices_cpu, promoted]

/-! ### The step -/

theorem step_running_next {s t : State} (running : s.Running) (run : step s = .next t) :
    ∃ u, exec (s.fetchAt s.cpu.pc) (s.beginStep.advancePc (s.fetchAt s.cpu.pc)) = .next u ∧
      t = u.finishStep s.cpu.imePending := by
  obtain ⟨-, ⟨stopped, -⟩ | ⟨-, halted, -⟩ | ⟨-, -, ran⟩⟩ := step_next run
  · exact absurd (running.stopped.symm.trans stopped) Bool.false_ne_true
  · exact absurd (running.halted.symm.trans halted) Bool.false_ne_true
  · exact ran

/-- No instruction but DI ends a pending EI. -/
theorem exec_keeps_imePending {i : Instr} {s t : State} (run : exec i s = .next t) (notDi : i ≠ .di)
    (pending : s.cpu.imePending = true) : t.cpu.imePending = true := by
  rcases (exec_next run).imePending with same | ⟨-, set⟩ | ⟨di, -⟩
  · exact same.trans pending
  · exact set
  · exact absurd di notDi

/-- Settles O41: EI and DI end in a step that leaves the CPU as they did; after any other instruction the EI pending from
before still is, and takes effect. -/
theorem eiTakesEffectAfterTheNextInstruction : Obligations.EiTakesEffectAfterTheNextInstruction := by
  intro s running ime
  refine ⟨fun noEi byte => ?ei, fun pending byte => ?di, fun pending byte t run => ?other⟩
  case ei =>
    obtain ⟨-, -, -, -, -, -, u, run, cpu, -⟩ := cpuControl (s.beginStep.advancePc .ei)
    rw [step_running running, State.fetchAt_of_byte (i := .ei) byte fun _ _ => rfl, run]
    refine ⟨_, rfl, ?_⟩
    rw [State.finishStep_cpu (s := u) (.inl noEi) (by rw [cpu]; exact ime) (by rw [cpu]; exact running.halted), cpu]
    exact ⟨ime, rfl, rfl⟩
  case di =>
    obtain ⟨-, -, -, ⟨-, -, u, run, cpu, -⟩, -⟩ := cpuControl (s.beginStep.advancePc .di)
    rw [step_running running, State.fetchAt_of_byte (i := .di) byte fun _ _ => rfl, run]
    refine ⟨_, rfl, ?_⟩
    rw [State.finishStep_cpu (s := u) (.inr (by rw [cpu])) (by rw [cpu]) (by rw [cpu]; exact running.halted), cpu]
    exact ⟨rfl, rfl, rfl⟩
  case other =>
    obtain ⟨u, ran, rfl⟩ := step_running_next running run
    have notDi : s.fetchAt s.cpu.pc ≠ .di := fun di => byte (decodeBytes_di di)
    rw [pending]
    exact State.finishStep_of_ei (exec_keeps_imePending ran notDi pending)

end Sys2Proof.Machine
end

section
/-! The host's runs and snapshots (70_reset_and_hazards.md R511, R517; 10_state.md R31, R39). -/

namespace Sys2Proof.Machine

/-! ### Runs one after the other -/

theorem Run.stay_completed_andThen (s : State) (second : State → Run) :
    (Run.stay s .completed).andThen second = second s := rfl

/-- What the first step delivered stays in front. -/
theorem Run.after_andThen (out : StepOut) (r : Run) (second : State → Run) :
    (r.after out).andThen second = (r.andThen second).after out := by
  obtain ⟨s, scanlines, audio, report⟩ := r
  cases report with
  | completed => simp only [Run.andThen, Run.after, List.append_assoc]
  | fault | noStep | unfinished => rfl

/-- A step that ends the run ends the whole of it (60_exceptions.md R421). -/
theorem Run.stepThen_andThen (s : State) (go second : State → Run) :
    (Run.stepThen s go).andThen second = Run.stepThen s fun t => (go t).andThen second := by
  unfold Run.stepThen
  cases step s with
  | next t => exact Run.after_andThen t.out (go t) second
  | fault r => rfl
  | refused r => rfl

/-- Settles O59, by induction on the steps of the first run. -/
theorem updateComposes : Obligations.UpdateComposes := by
  intro n m s
  induction n generalizing s with
  | zero => rw [Nat.zero_add, update, Run.stay_completed_andThen]
  | succ n ih =>
    rw [Nat.succ_add, update, update, Run.stepThen_andThen]
    exact congrArg (Run.stepThen s) (funext ih)

/-! ### Snapshots -/

/-- A step does not see what the step before delivered. -/
theorem step_beginStep (s : State) : step s.beginStep = step s := rfl

theorem run_succ_congr {M : Host.Core} {s t : M.State} (h : M.step s = M.step t) (n : Nat) :
    M.run (n + 1) s = M.run (n + 1) t := by
  rw [Host.Core.run, Host.Core.run, h]

/-- Everything a restore does: the saved machine, but no deliveries and a fault of either machine (10_state.md R31). -/
theorem State.deserialize_eq {s later : State} (cart : later.cart = s.cart) : later.deserialize s.serialize =
    s.reframe { s.cpu with faulted := later.cpu.faulted || s.cpu.faulted } StepOut.empty := by
  rw [State.deserialize, cart]
  rfl

/-- Where it clears no fault, the restored machine goes on as the saved one, whose deliveries no step sees. -/
theorem State.run_deserialize {s later : State} (cart : later.cart = s.cart)
    (h : later.cpu.faulted = false ∨ s.cpu.faulted = true) (n : Nat) :
    Host.Core.run core (n + 1) (later.deserialize s.serialize) = Host.Core.run core (n + 1) s := by
  rw [State.deserialize_serialize cart h]
  exact run_succ_congr (M := core) (step_beginStep s) n

/-- Settles O60: a restore brings back what a read or a snapshot sees, all but `faulted`; where that is back too, the machine
is the saved one without its deliveries. -/
theorem snapshotResumesExactly : Obligations.SnapshotResumesExactly := by
  intro s later cart
  refine ⟨fun a => ?reads, rfl, fun unfaulted => ⟨?snapshot, State.run_deserialize cart unfaulted⟩,
    fun faulted => step_faulted ?faulted⟩
  case reads => rw [State.deserialize_eq cart, State.reframe_memRead]
  case snapshot =>
    rw [State.deserialize_serialize cart unfaulted]
    rfl
  case faulted => rw [State.deserialize_faulted, faulted, Bool.true_or]

end Sys2Proof.Machine
end
